-- ==== Sys2Proof/Word.lean ====
section
/-! DEFINITION. The widths of the codec block's values and ports (spec/00_scope.md R8, R9, R11; spec/30_encoding.md R70 to R72). -/

namespace Sys2Proof

/-- One byte of a frame, a register id, a checksum or a seed (R8). -/
abbrev Byte := BitVec 8

/-- The 4-bit device address, 0 to 15 (R8). -/
abbrev Addr := BitVec 4

/-- A response field or a register value: 24 bits (R8). -/
abbrev Word24 := BitVec 24

/-- A 32-bit port value or result register; it has no byte order (R9, R55). -/
abbrev Word := BitVec 32

/-- The `CMD.len` field, 6 bits (R70). -/
abbrev Len := BitVec 6

/-- The 35-byte input buffer `IN[0..34]`, which is `RESP_LEN` long (R72). -/
abbrev InBuf := Vector Byte 35

/-- The six output bytes `OUT[0..5]` (R31). -/
abbrev OutBuf := Vector Byte 6

/-- The eleven 32-bit field registers `FIELD[0..10]`, `NFIELDS` of them (R31, R39). -/
abbrev FieldFile := Vector Word 11

/-- The 3-bit `STATUS` register (R31, R33). -/
abbrev StatusCode := BitVec 3

end Sys2Proof
end

