-- ==== Sys2Proof/Config.lean ====
section
/-! DEFINITION. What is fixed when the block is built: the shape of the constants record and of the slot map (spec/00_scope.md R7, R10; spec/44_response_parser.md R161), and the metering device's open parameters P1 to P3 (spec/92_eei_decisions.md). The values this hardware has stand in Machine/Constants.lean. -/

namespace Sys2Proof

/-- The byte order in which a 3-byte response field is sent (R52, R54, 93_implementation_defined.md I3). -/
inductive ByteOrder where
  | big
  | little
  deriving DecidableEq, Repr

/-- The `FIELD[k]` names of R161. -/
inductive FieldName where
  | vRms | iaRms | ibRms | pwrA | pwrB | rsv0 | rsv1 | rsv2 | rsv3 | cntA | cntB
  deriving DecidableEq, Repr

/-- One row of the slot map: which field sits in the slot and whether it is decoded with `sext_32` (R161, R162). -/
structure Slot where
  name : FieldName
  signed : Bool
  deriving DecidableEq, Repr

/-- The one configuration record of R10: the constants table of R7, the slot map of R161 and the byte order of response fields (I3).
Every constant of R7 is a field, the lengths too (D17). -/
structure Config where
  /-- `READ_OPCODE` -/
  readOpcode : Byte
  /-- `WRITE_OPCODE` -/
  writeOpcode : Byte
  /-- `FULL_PACKET` -/
  fullPacket : Byte
  /-- `HEADER` -/
  header : Byte
  /-- `INVERT` -/
  invert : Byte
  /-- `RESP_LEN`, bytes of a response frame -/
  respLen : Nat
  /-- `NFIELDS`, 3-byte fields of a response frame -/
  nFields : Nat
  /-- `WRITE_LEN`, bytes of a register write frame -/
  writeLen : Nat
  /-- `RREQ_LEN`, bytes of a read request -/
  rreqLen : Nat
  /-- `RRESP_LEN`, bytes of a register read response -/
  rrespLen : Nat
  /-- the slot map -/
  slots : Vector Slot 11
  /-- the byte order of a response field -/
  fieldOrder : ByteOrder
  deriving DecidableEq, Repr

/-- The lengths of a record agree with the frame layouts of R76 to R79 and R160 and with the ports: `IN` has 35 bytes (R72), `FIELD` eleven registers and `OUT` six bytes (R31).
A record that does not fit is no machine of the spec: notes/assumptions/8. -/
abbrev Config.fits (cfg : Config) : Prop :=
  cfg.nFields ≤ 11 ∧ cfg.respLen = 1 + 3 * cfg.nFields + 1 ∧ cfg.writeLen = 6 ∧ cfg.rreqLen = 2 ∧ cfg.rrespLen = 4

/-- The names of the metering device's registers that R234 and P1 use. -/
inductive DeviceReg where
  | softReset | writeProtect | mode | tpsCtrl | fastRmsCtrlA | fastRmsCtrlB
  deriving DecidableEq, Repr

/-- P1: the register ids of the metering device, `OPEN` in the spec (N5): a free value.  No operation of the block reads it. -/
opaque Config.regId : DeviceReg → Byte

/-- P2: `DEFAULT_MODE`, `OPEN` in the spec (N6): a free value.  No operation of the block reads it. -/
opaque Config.defaultMode : Word24

/-- P3: `WRITE_GAP_MIN` in microseconds, `OPEN` in the spec (N7): a free value.  No rule of the model uses it (I6). -/
opaque Config.writeGapMin : Nat

end Sys2Proof
end

