-- ==== Sys2Proof/Machine/Constants.lean ====
section
/-! DEFINITION. The values of the configuration record for this hardware: the constants of spec/00_scope.md R7 and the slot map of spec/44_response_parser.md R161, R162. -/

namespace Sys2Proof.Machine

/-- The slot map of R161 with the signedness of R162 (90_conflicts.md C4: §6's order; D15: reserved slots raw).
DEDUCED (the spec derives N = 4): notes/assumptions/9. Unsafe. -/
def hwSlots : Vector Slot 11 :=
  #v[⟨.vRms, false⟩, ⟨.iaRms, false⟩, ⟨.ibRms, false⟩, ⟨.pwrA, true⟩, ⟨.pwrB, true⟩,
     ⟨.rsv0, false⟩, ⟨.rsv1, false⟩, ⟨.rsv2, false⟩, ⟨.rsv3, false⟩, ⟨.cntA, true⟩, ⟨.cntB, true⟩]

/-- The constants table of R7 and the defaults of R10: the configuration of this hardware.
The literals are the document's and unaudited (I14): notes/assumptions/8. Unsafe. -/
def hw : Config where
  readOpcode := 0x50#8
  writeOpcode := 0xA0#8
  fullPacket := 0xAA#8
  header := 0x55#8
  invert := 0xFF#8
  respLen := 35
  nFields := 11
  writeLen := 6
  rreqLen := 2
  rrespLen := 4
  slots := hwSlots
  fieldOrder := .big

end Sys2Proof.Machine
end

