-- ==== Sys2Proof/Machine/Operands.lean ====
section
/-! DEFINITION. The byte arithmetic every operation shares, over any configuration record: the checksum (spec/00_scope.md R14), the field assemblers and the widening (R15, R16), the command byte and the seed (spec/30_encoding.md R80, spec/45_readback.md R181), the wire-frame layouts (R76 to R79, R160). -/

namespace Sys2Proof.Machine

/-! ## Buffers -/

/-- The 35 bytes of a `.in` line: the listed bytes from index 0 on, the unlisted ones 0 (R85). -/
def inOfList (bs : List Byte) : InBuf := Vector.ofFn fun k : Fin 35 => bs.getD k.val 0

/-- A frame placed at `IN[0]` onward; the remaining bytes of the port stay as they are driven (R72). -/
def placeAt (bs : List Byte) (b : InBuf) : InBuf := Vector.ofFn fun k : Fin 35 => bs.getD k.val b[k]

/-- `OUT[0..5]` holding a frame: bytes at index `OUT_LEN` and above are 0x00 (41_encoders.md, D6). -/
def padOut (bs : List Byte) : OutBuf := Vector.ofFn fun k : Fin 6 => bs.getD k.val 0

/-! ## Checksum -/

/-- `Cksum(seed, b)`: the 8-bit sum of the seed and the bytes, then XOR `INVERT` (R14). -/
def cksum (cfg : Config) (seed : Byte) (b : List Byte) : Byte := b.foldl (· + ·) seed ^^^ cfg.invert

/-- A command byte: the opcode nibble OR'd with the 4-bit address (R80). -/
def cmdByte (opc : Byte) (addr : Addr) : Byte := opc ||| addr.setWidth 8

/-- The one seed of device-to-host frames, `READ_OPCODE | addr` (R122, R181; C3, C6). -/
def responseSeed (cfg : Config) (addr : Addr) : Byte := cmdByte cfg.readOpcode addr

/-- The checksum of a response frame: seed `READ_OPCODE | addr`, every byte but the last of `RESP_LEN`, bytes 0..33 inclusive here (R79, R122; C2). -/
def responseCk (cfg : Config) (addr : Addr) (b : InBuf) : Byte :=
  cksum cfg (responseSeed cfg addr) (b.toList.take (cfg.respLen - 1))

/-- The last byte of a frame of `n` bytes at `IN[0]` onward, its checksum byte: `IN[34]` of a response frame (R79), `IN[3]` of a read response (R78).
Past the port it is 0, which no length of this hardware reaches: notes/assumptions/8. -/
def trailingByte (n : Nat) (b : InBuf) : Byte := b.toList.getD (n - 1) 0

/-- The checksum of a register read response: the register id, then the three value bytes (R78, R180, R181).
The sum is modulo 256 (D12): notes/assumptions/10. Unsafe. -/
def readbackCk (cfg : Config) (addr : Addr) (reg lo mid hi : Byte) : Byte :=
  cksum cfg (responseSeed cfg addr) [reg, lo, mid, hi]

/-! ## Field assemblers and widening -/

/-- `BE24(h, m, l)`: most-significant byte first (R15, R52). -/
def be24 (h m l : Byte) : Word24 := h ++ m ++ l

/-- `LE24(lo, mid, hi)`: least-significant byte first (R15, R53). -/
def le24 (lo mid hi : Byte) : Word24 := hi ++ mid ++ lo

/-- Byte `j` of a 24-bit value, byte 0 the least significant. -/
def byteOf (v : Word24) (j : Nat) : Byte := v.extractLsb' (8 * j) 8

/-- `LEbytes(v)`: lo, mid, hi (R15). -/
def leBytes (v : Word24) : List Byte := [byteOf v 0, byteOf v 1, byteOf v 2]

/-- `zext_32` (R12). -/
def zext32 (v : Word24) : Word := v.setWidth 32

/-- `sext_32`: copies of bit 23 above bit 23 (R12, R16). -/
def sext32 (v : Word24) : Word := v.signExtend 32

/-- The widening of a slot: `sext_32` if signed, else `zext_32` (R162, R163). -/
def widen (signed : Bool) (v : Word24) : Word := if signed then sext32 v else zext32 v

/-- `VALUE[23:0]`; bits 31:24 are discarded (R71, R81). -/
def value24 (value : Word) : Word24 := value.extractLsb' 0 24

/-! ## Response-frame slots -/

/-- The three wire bytes of a slot assembled in the configured order, big-endian here (R52, R54, I3). -/
def assemble (order : ByteOrder) (b0 b1 b2 : Byte) : Word24 :=
  match order with
  | .big => be24 b0 b1 b2
  | .little => le24 b0 b1 b2

/-- The three wire bytes of a 24-bit value in the configured order. -/
def wireBytes (order : ByteOrder) (v : Word24) : List Byte :=
  match order with
  | .big => [byteOf v 2, byteOf v 1, byteOf v 0]
  | .little => leBytes v

/-- The 24 bits of slot k: bytes 1+3k, 2+3k, 3+3k of the frame (R56, R160). -/
def slot24 (cfg : Config) (b : InBuf) (k : Fin 11) : Word24 :=
  assemble cfg.fieldOrder (b[1 + 3 * k.val]'(by omega)) (b[2 + 3 * k.val]'(by omega)) (b[3 + 3 * k.val]'(by omega))

/-- The `NFIELDS` decoded fields of a frame, all eleven registers here; a register past them keeps its value (R163). -/
def decodeFields (cfg : Config) (b : InBuf) (old : FieldFile) : FieldFile :=
  Vector.ofFn fun k : Fin 11 => if k.val < cfg.nFields then widen cfg.slots[k].signed (slot24 cfg b k) else old[k]

/-! ## Wire frames -/

/-- The telemetry request (R76). -/
def telemetryRequest (cfg : Config) (addr : Addr) : List Byte := [cmdByte cfg.readOpcode addr, cfg.fullPacket]

/-- The register read request (R76). -/
def readRequest (cfg : Config) (addr : Addr) (reg : Byte) : List Byte := [cmdByte cfg.readOpcode addr, reg]

/-- The first five bytes of a register write frame (R77). -/
def writeBody (cfg : Config) (addr : Addr) (reg : Byte) (v : Word24) : List Byte :=
  [cmdByte cfg.writeOpcode addr, reg] ++ leBytes v

/-- The checksum of a register write frame: seed 0x00, bytes 0..4 (R77, R104).
The sum is modulo 256 (D12): notes/assumptions/10. Unsafe. -/
def writeCk (cfg : Config) (addr : Addr) (reg : Byte) (v : Word24) : Byte := cksum cfg 0x00 (writeBody cfg addr reg v)

/-- The register write frame (R77). -/
def writeFrame (cfg : Config) (addr : Addr) (reg : Byte) (v : Word24) : List Byte :=
  writeBody cfg addr reg v ++ [writeCk cfg addr reg v]

/-- The register read response that answers a read of `reg` at `addr` with value `v` (R78). -/
def readResponse (cfg : Config) (addr : Addr) (reg : Byte) (v : Word24) : List Byte :=
  leBytes v ++ [readbackCk cfg addr reg (byteOf v 0) (byteOf v 1) (byteOf v 2)]

/-- Every byte but the last of the response frame that carries the first `NFIELDS` slots of `u`, all eleven here (R79, R160). -/
def responseBody (cfg : Config) (u : Vector Word24 11) : List Byte :=
  cfg.header :: (u.toList.take cfg.nFields).flatMap (wireBytes cfg.fieldOrder)

/-- The well-formed response frame of device `addr` that carries the slots `u[0..10]` (R79, R160, R167).
The block has no such encoder (N12); it says which frames are well formed. -/
def responseFrame (cfg : Config) (addr : Addr) (u : Vector Word24 11) : InBuf :=
  inOfList (responseBody cfg u ++ [cksum cfg (responseSeed cfg addr) (responseBody cfg u)])

end Sys2Proof.Machine
end

