-- ==== Sys2Proof/Syntax.lean ====
section
/-! DEFINITION. The instructions: one constructor for each row of spec/opcode_table.json (twelve operations, four reserved op codes, five wire frames), and the code that carries one. -/

namespace Sys2Proof

/-- One constructor per row of spec/opcode_table.json, with the operands its rule reads (spec/30_encoding.md R82, R85).
`IN` is not an operand here: it is the input port of `State`. -/
inductive Instr where
  /-- ENC_TREQ addr (R100) -/
  | encTreq (addr : Addr)
  /-- ENC_RREQ addr, reg (R102) -/
  | encRreq (addr : Addr) (reg : Byte)
  /-- ENC_WR addr, reg, value (R104); `value` is the whole 32-bit `VALUE` port (R71) -/
  | encWr (addr : Addr) (reg : Byte) (value : Word)
  /-- PACK_LE value (R106) -/
  | packLe (value : Word)
  /-- CKSUM seed, len (R120) -/
  | cksum (seed : Byte) (len : Len)
  /-- VAL_CK addr (R122) -/
  | valCk (addr : Addr)
  /-- UNPK_BE_U (R140) -/
  | unpkBeU
  /-- UNPK_BE_S (R142) -/
  | unpkBeS
  /-- UNPK_LE_U (R144) -/
  | unpkLeU
  /-- DEC_RESP (R163) -/
  | decResp
  /-- PARSE addr (R165) -/
  | parse (addr : Addr)
  /-- VAL_RB addr, reg (R180) -/
  | valRb (addr : Addr) (reg : Byte)
  /-- RESERVED, op code 0x0 (R75) -/
  | reserved0
  /-- RESERVED, op code 0xD (R75) -/
  | reservedD
  /-- RESERVED, op code 0xE (R75) -/
  | reservedE
  /-- RESERVED, op code 0xF (R75) -/
  | reservedF
  /-- WIRE_TELEMETRY_REQUEST, 2 bytes, host to device (R76) -/
  | wireTelemetryRequest (addr : Addr)
  /-- WIRE_REGISTER_READ_REQUEST, 2 bytes, host to device (R76) -/
  | wireRegisterReadRequest (addr : Addr) (reg : Byte)
  /-- WIRE_REGISTER_WRITE, 6 bytes, host to device (R77); `ck` is the checksum byte as it is on the link -/
  | wireRegisterWrite (addr : Addr) (reg valLo valMid valHi ck : Byte)
  /-- WIRE_REGISTER_READ_RESPONSE, 4 bytes, device to host (R78) -/
  | wireRegisterReadResponse (valLo valMid valHi ck : Byte)
  /-- WIRE_RESPONSE_FRAME, 35 bytes, device to host (R79, R160) -/
  | wireResponseFrame (bytes : InBuf)
  deriving DecidableEq, Repr

/-- What carries an instruction: the command ports `CMD` and `VALUE` (R70, R71), or the bytes of a wire frame, index 0 the first byte on the link (R51). -/
inductive Code where
  | command (cmd value : Word)
  | frame (bytes : List Byte)
  deriving DecidableEq, Repr

end Sys2Proof
end

