-- ==== Sys2Proof/WellFormed.lean ====
section
/-! DEFINITION. Which instructions are well formed: the checks that the types of Syntax.lean do not carry. -/

namespace Sys2Proof

/-- Well-formedness, one arm per constructor.
CKSUM: `CMD.len` is 0..35 (spec/30_encoding.md R70, R75).
WIRE_REGISTER_READ_REQUEST: the id is not `FULL_PACKET`, whose bytes are the telemetry request's (R86): notes/assumptions/6.
WIRE_RESPONSE_FRAME: byte 0 is `HEADER`, else the frame is malformed (R84, R160). -/
def Instr.wf : Instr → Bool
  | .encTreq _ => true
  | .encRreq _ _ => true
  | .encWr _ _ _ => true
  | .packLe _ => true
  | .cksum _ len => len.toNat ≤ Machine.hw.respLen
  | .valCk _ => true
  | .unpkBeU => true
  | .unpkBeS => true
  | .unpkLeU => true
  | .decResp => true
  | .parse _ => true
  | .valRb _ _ => true
  | .reserved0 => true
  | .reservedD => true
  | .reservedE => true
  | .reservedF => true
  | .wireTelemetryRequest _ => true
  | .wireRegisterReadRequest _ reg => reg != Machine.hw.fullPacket
  | .wireRegisterWrite _ _ _ _ _ _ => true
  | .wireRegisterReadResponse _ _ _ _ => true
  | .wireResponseFrame b => b[0] == Machine.hw.header

end Sys2Proof
end

