-- ==== Sys2Proof/Decode.lean ====
section
/-! DEFINITION. From code to instruction and back: the `CMD` fields and the op-code map (spec/30_encoding.md R70, R74, R75), the wire-frame formats (R76 to R79, R83, R84), the encoder, and the numbering of spec/opcode_table.json. -/

namespace Sys2Proof

/-! ## The fields of CMD (R70) -/

/-- `CMD.op`, bits 3:0. -/
def cmdOp (cmd : Word) : BitVec 4 := cmd.extractLsb' 0 4
/-- `CMD.addr`, bits 7:4. -/
def cmdAddr (cmd : Word) : Addr := cmd.extractLsb' 4 4
/-- `CMD.reg`, bits 15:8. -/
def cmdReg (cmd : Word) : Byte := cmd.extractLsb' 8 8
/-- `CMD.len`, bits 21:16. -/
def cmdLen (cmd : Word) : Len := cmd.extractLsb' 16 6
/-- `CMD.rsv`, bits 23:22. -/
def cmdRsv (cmd : Word) : BitVec 2 := cmd.extractLsb' 22 2
/-- `CMD.seed`, bits 31:24. -/
def cmdSeed (cmd : Word) : Byte := cmd.extractLsb' 24 8

/-- The `CMD` word with these fields and `rsv` 0 (R70). -/
def cmdWord (op : BitVec 4) (addr : Addr) (reg : Byte) (len : Len) (seed : Byte) : Word :=
  seed ++ 0#2 ++ len ++ reg ++ addr ++ op

/-! ## Decoding -/

/-- Why a code is no instruction. -/
inductive Reject where
  /-- `CMD.rsv` is not 0 (R75) -/
  | reservedBits
  /-- `CKSUM` with `CMD.len` above 35 (R75) -/
  | lenOutOfRange
  /-- a frame whose length is none of 2, 4, 6 and 35 (R83) -/
  | notAFrameLength
  /-- a 2-byte frame whose first byte is not `READ_OPCODE | addr` (R76) -/
  | notAReadCommandByte
  /-- a 6-byte frame whose first byte is not `WRITE_OPCODE | addr` (R77) -/
  | notAWriteCommandByte
  /-- a 35-byte frame whose byte 0 is not `HEADER`: a malformed response frame (R84) -/
  | badHeader
  deriving DecidableEq, Repr

/-- Decode the command ports (R74, R75, R82): fields an operation does not read are never checked, except `rsv`.
A reserved op code is its RESERVED row whatever the other bits are (the rows' mask is 0x0000000F): notes/assumptions/5. -/
def decodeCommand (cmd value : Word) : Except Reject Instr :=
  match cmdOp cmd with
  | 0x0 => .ok .reserved0
  | 0xD => .ok .reservedD
  | 0xE => .ok .reservedE
  | 0xF => .ok .reservedF
  | op =>
    if cmdRsv cmd ≠ 0 then .error .reservedBits
    else match op with
      | 0x1 => .ok (.encTreq (cmdAddr cmd))
      | 0x2 => .ok (.encRreq (cmdAddr cmd) (cmdReg cmd))
      | 0x3 => .ok (.encWr (cmdAddr cmd) (cmdReg cmd) value)
      | 0x4 => .ok (.packLe value)
      | 0x5 => if (cmdLen cmd).toNat > Machine.hw.respLen then .error .lenOutOfRange
               else .ok (.cksum (cmdSeed cmd) (cmdLen cmd))
      | 0x6 => .ok (.valCk (cmdAddr cmd))
      | 0x7 => .ok .unpkBeU
      | 0x8 => .ok .unpkBeS
      | 0x9 => .ok .unpkLeU
      | 0xA => .ok .decResp
      | 0xB => .ok (.parse (cmdAddr cmd))
      | _ => .ok (.valRb (cmdAddr cmd) (cmdReg cmd))

/-- The high nibble of a command byte, in place (R80). -/
def opcodeNibble (b : Byte) : Byte := b &&& 0xF0#8

/-- The low nibble of a command byte: the address reads back as `cmdbyte[3:0]` (R80). -/
def nibbleAddr (b : Byte) : Addr := b.extractLsb' 0 4

/-- Byte `j` of a frame on the link (R51). -/
abbrev frameByte (bs : List Byte) (j : Nat) : Byte := bs.getD j 0

/-- Decode the bytes of a wire frame (R76 to R79): each format has one fixed length (R83).
A 2-byte frame that ends in `FULL_PACKET` is the telemetry request (R86): notes/assumptions/6. -/
def decodeFrame (bs : List Byte) : Except Reject Instr :=
  if bs.length = Machine.hw.rreqLen then
    if opcodeNibble (frameByte bs 0) ≠ Machine.hw.readOpcode then .error .notAReadCommandByte
    else if frameByte bs 1 = Machine.hw.fullPacket then .ok (.wireTelemetryRequest (nibbleAddr (frameByte bs 0)))
    else .ok (.wireRegisterReadRequest (nibbleAddr (frameByte bs 0)) (frameByte bs 1))
  else if bs.length = Machine.hw.rrespLen then
    .ok (.wireRegisterReadResponse (frameByte bs 0) (frameByte bs 1) (frameByte bs 2) (frameByte bs 3))
  else if bs.length = Machine.hw.writeLen then
    if opcodeNibble (frameByte bs 0) ≠ Machine.hw.writeOpcode then .error .notAWriteCommandByte
    else .ok (.wireRegisterWrite (nibbleAddr (frameByte bs 0))
      (frameByte bs 1) (frameByte bs 2) (frameByte bs 3) (frameByte bs 4) (frameByte bs 5))
  else if bs.length = Machine.hw.respLen then
    if frameByte bs 0 ≠ Machine.hw.header then .error .badHeader
    else .ok (.wireResponseFrame (Machine.inOfList bs))
  else .error .notAFrameLength

/-- Decode a code: total, rejecting by name. -/
def decode : Code → Except Reject Instr
  | .command cmd value => decodeCommand cmd value
  | .frame bs => decodeFrame bs

/-! ## Encoding -/

/-- The code of an instruction: the `CMD` word of R70 with unwritten fields 0, and `VALUE` where the operation reads it (R85), or the frame's bytes. -/
def encode : Instr → Code
  | .encTreq addr => .command (cmdWord 0x1 addr 0 0 0) 0
  | .encRreq addr reg => .command (cmdWord 0x2 addr reg 0 0) 0
  | .encWr addr reg value => .command (cmdWord 0x3 addr reg 0 0) value
  | .packLe value => .command (cmdWord 0x4 0 0 0 0) value
  | .cksum seed len => .command (cmdWord 0x5 0 0 len seed) 0
  | .valCk addr => .command (cmdWord 0x6 addr 0 0 0) 0
  | .unpkBeU => .command (cmdWord 0x7 0 0 0 0) 0
  | .unpkBeS => .command (cmdWord 0x8 0 0 0 0) 0
  | .unpkLeU => .command (cmdWord 0x9 0 0 0 0) 0
  | .decResp => .command (cmdWord 0xA 0 0 0 0) 0
  | .parse addr => .command (cmdWord 0xB addr 0 0 0) 0
  | .valRb addr reg => .command (cmdWord 0xC addr reg 0 0) 0
  | .reserved0 => .command (cmdWord 0x0 0 0 0 0) 0
  | .reservedD => .command (cmdWord 0xD 0 0 0 0) 0
  | .reservedE => .command (cmdWord 0xE 0 0 0 0) 0
  | .reservedF => .command (cmdWord 0xF 0 0 0 0) 0
  | .wireTelemetryRequest addr => .frame (Machine.telemetryRequest Machine.hw addr)
  | .wireRegisterReadRequest addr reg => .frame (Machine.readRequest Machine.hw addr reg)
  | .wireRegisterWrite addr reg lo mid hi ck => .frame [Machine.cmdByte Machine.hw.writeOpcode addr, reg, lo, mid, hi, ck]
  | .wireRegisterReadResponse lo mid hi ck => .frame [lo, mid, hi, ck]
  | .wireResponseFrame b => .frame b.toList

/-! ## The numbering of spec/opcode_table.json -/

/-- The `n` bytes of a table word: the table writes a frame as one number, first byte in its highest bits (row WIRE_TELEMETRY_REQUEST fixes bits 15:12 to 5, the high nibble of byte 0).
DEDUCED: notes/assumptions/4. -/
def tableBytes (n w : Nat) : List Byte := (List.range n).map fun i => BitVec.ofNat 8 (w >>> (8 * (n - 1 - i)))

/-- The code a table word stands for: 16, 48 and 280 bits are the frames of those lengths; every other width is `CMD` (bits 31:0) with `VALUE` above it (bits 63:32, zero where the row has no bits for it).
A 4-byte read response has the width of `CMD` and is reached by `Code.frame` only: notes/assumptions/4. -/
def tableCode (nbits w : Nat) : Code :=
  if nbits = 8 * Machine.hw.rreqLen then .frame (tableBytes Machine.hw.rreqLen w)
  else if nbits = 8 * Machine.hw.writeLen then .frame (tableBytes Machine.hw.writeLen w)
  else if nbits = 8 * Machine.hw.respLen then .frame (tableBytes Machine.hw.respLen w)
  else .command (BitVec.ofNat 32 w) (BitVec.ofNat 32 (w >>> 32))

/-- The instruction the decoder reads from a table word; none where it rejects. -/
def decodeTableWord (nbits w : Nat) : Option Instr :=
  match decode (tableCode nbits w) with
  | .ok i => some i
  | .error _ => none

end Sys2Proof
end

