-- ==== Sys2Proof/Machine/Flags.lean ====
section
/-! DEFINITION. The condition codes: the `STATUS` codes of spec/10_state.md R33 and the rule of the one flag `CK_OK` (R34). -/

namespace Sys2Proof.Machine

/-- `NONE`: no operation has completed since reset. -/
abbrev stNone : StatusCode := 0
/-- `OK`: the last operation completed without error. -/
abbrev stOk : StatusCode := 1
/-- `BAD_CHECKSUM`: the computed checksum differs from the received byte. -/
abbrev stBadChecksum : StatusCode := 2
/-- `BAD_HEADER`: response-frame byte 0 differs from `HEADER`. -/
abbrev stBadHeader : StatusCode := 3
/-- `ILLEGAL`: reserved op code, non-zero reserved bits, or out-of-range `CMD.len`. -/
abbrev stIllegal : StatusCode := 7

/-- `CK_OK`: 1 when the computed checksum equals the received byte, else 0 (R34). -/
def checkOk (computed received : Byte) : Bool := computed == received

/-- The header check: all 8 bits of byte 0 against `HEADER` (R163, D23). -/
def headerOk (cfg : Config) (b : InBuf) : Bool := b[0] == cfg.header

end Sys2Proof.Machine
end

