-- ==== Sys2Proof/Machine/State.lean ====
section
/-! DEFINITION. The state: the result registers of spec/10_state.md R31, and the two things the user holds at the block's ports (IN, and the events the user presents in order). -/

namespace Sys2Proof.Machine

/-- One thing the user does at the block, or that happens at its ports.
The block's order of operations is the user's (R37, R60); reset is the one event that is no operation (R208). -/
inductive Event where
  /-- a transaction on the command ports, or a frame on the serial link (R73, R51) -/
  | present (c : Code)
  /-- the user drives `IN[0..34]` (R72, R85 `.in`) -/
  | driveIn (b : InBuf)
  /-- reset, which happens only between transactions (R230, R231) -/
  | reset
  deriving DecidableEq, Repr

/-- The machine.  The first seven fields are the block's architectural state, exactly the result registers of R31 (R30).
The last two are not the block's (R36): they are what its user holds.  DESIGN CHOICE: notes/assumptions/1. -/
structure State where
  /-- `OUT[0..5]` -/
  out : OutBuf
  /-- `OUT_LEN`, 3 bits -/
  outLen : BitVec 3
  /-- `FIELD[0..10]` -/
  field : FieldFile
  /-- `RVAL` -/
  rval : Word
  /-- `CK` -/
  ck : Byte
  /-- `CK_OK` -/
  ckOk : Bool
  /-- `STATUS`, 3 bits, with the codes of R33 -/
  status : StatusCode
  /-- the input port `IN[0..34]`, as the user drives it (R72) -/
  inp : InBuf
  /-- what the user presents next, in order, the next one first (R60) -/
  pending : List Event
  deriving DecidableEq, Repr

/-- Reasons to stop with a fault: there is none.  An error is a `STATUS` code, not a trap, and does not stop the block (R201, R204). -/
inductive Fault where
  deriving DecidableEq, Repr

/-- Reasons to refuse an instruction. -/
inductive Refusal where
  /-- raised by an arm of `exec` whose instruction has no meaning in this model yet; safe.  No arm raises it. -/
  | notModelled (mnemonic : String)
  deriving DecidableEq, Repr

/-- The machine right after reset: every result register at the reset value of R31 and R230, `STATUS` = `NONE` (0).
`inp` all 0 and `pending` empty are the model's, not the block's.  DESIGN CHOICE: notes/assumptions/1. Unsafe. -/
def State.reset : State where
  out := Vector.replicate 6 0
  outLen := 0
  field := Vector.replicate 11 0
  rval := 0
  ck := 0
  ckOk := false
  status := 0
  inp := Vector.replicate 35 0
  pending := []

end Sys2Proof.Machine
end

