-- ==== Sys2Proof/Machine/Ops.lean ====
section
/-! DEFINITION. The named operations over the result registers, each writing only the registers it names (spec/10_state.md R32), the one way an operation reports an error (spec/60_exceptions.md R200, R201, R204), and the events that are no operation (reset R230, driving IN R72, a frame at the ports R51). -/

namespace Sys2Proof.Machine

/-! ## Writing result registers -/

/-- `STATUS <- code`.  Every operation ends with it (R32). -/
def State.putStatus (code : StatusCode) (s : State) : State := { s with status := code }

/-- `OUT_LEN <- n`, and `OUT` written in full with the `n` bytes of a frame to send: bytes at index `n` and above are 0x00 (41_encoders.md, D6). -/
def State.putOut (n : Nat) (frame : List Byte) (s : State) : State :=
  { s with out := padOut (frame.take n), outLen := BitVec.ofNat 3 n }

/-- `CK <- c`. -/
def State.putCk (c : Byte) (s : State) : State := { s with ck := c }

/-- `CK <- computed` and `CK_OK <- (computed == received)` (R34, R122, R165, R180). -/
def State.putCheck (computed received : Byte) (s : State) : State :=
  { s with ck := computed, ckOk := checkOk computed received }

/-- `RVAL <- v`. -/
def State.putRval (v : Word) (s : State) : State := { s with rval := v }

/-- `FIELD[0..10] <- f`, all eleven (R163). -/
def State.putFields (f : FieldFile) (s : State) : State := { s with field := f }

/-- The user drives the input port. -/
def State.putInp (b : InBuf) (s : State) : State := { s with inp := b }

/-- What is still to be presented. -/
def State.putPending (p : List Event) (s : State) : State := { s with pending := p }

/-! ## Ending an operation -/

/-- End without error: `STATUS <- OK`. -/
def State.endOk (s : State) : State := s.putStatus stOk

/-- End with an error code, the block's whole error entry: there is no trap, no saved state and no transfer of control, and the data registers keep their values (R32, R201, R204).
There is no return from it either (R205): the next command is taken normally. -/
def State.endError (code : StatusCode) (s : State) : State := s.putStatus code

/-- An illegal command performs no part of any operation: `STATUS <- ILLEGAL` and nothing else (R75, R203). -/
def State.illegal (s : State) : State := s.endError stIllegal

/-! ## Shared operations, over any configuration record -/

/-- An encoder: `OUT`, `OUT_LEN`, `STATUS <- OK` (R100, R102, R106). -/
def encodeFrame (n : Nat) (frame : List Byte) (s : State) : State := (s.putOut n frame).endOk

/-- ENC_WR: the write frame in `OUT`, its checksum also in `CK` (R104). -/
def encodeWrite (cfg : Config) (addr : Addr) (reg : Byte) (value : Word) (s : State) : State :=
  ((s.putOut cfg.writeLen (writeFrame cfg addr reg (value24 value))).putCk (writeCk cfg addr reg (value24 value))).endOk

/-- CKSUM: the checksum of the first `len` input bytes (R120); `len` above `RESP_LEN`, 35, is illegal (D16). -/
def checksumOf (cfg : Config) (seed : Byte) (len : Len) (s : State) : State :=
  if len.toNat > cfg.respLen then s.illegal
  else (s.putCk (cksum cfg seed (s.inp.toList.take len.toNat))).endOk

/-- The check registers of a response frame: computed checksum against `IN[34]` (R122, R165). -/
def checkResponse (cfg : Config) (addr : Addr) (s : State) : State :=
  s.putCheck (responseCk cfg addr s.inp) (trailingByte cfg.respLen s.inp)

/-- VAL_CK: check the trailing checksum; the header is not checked here (R122). -/
def validateResponse (cfg : Config) (addr : Addr) (s : State) : State :=
  let t := checkResponse cfg addr s
  if t.ckOk then t.endOk else t.endError stBadChecksum

/-- An unpacker: `RVAL` and `STATUS <- OK` (43_field_unpack.md). -/
def unpack (v : Word) (s : State) : State := (s.putRval v).endOk

/-- DEC_RESP: the header check, then all eleven fields; on a bad header no field is written (R163, R164). -/
def decodeResponse (cfg : Config) (s : State) : State :=
  if headerOk cfg s.inp then (s.putFields (decodeFields cfg s.inp s.field)).endOk
  else s.endError stBadHeader

/-- PARSE: the checksum first, then DEC_RESP's steps (R165, R166). -/
def parseResponse (cfg : Config) (addr : Addr) (s : State) : State :=
  let t := checkResponse cfg addr s
  if t.ckOk then decodeResponse cfg t else t.endError stBadChecksum

/-- VAL_RB: check the read response in `IN[0..3]`; only on a match is `RVAL` written (R180). -/
def validateReadback (cfg : Config) (addr : Addr) (reg : Byte) (s : State) : State :=
  let t := s.putCheck (readbackCk cfg addr reg s.inp[0] s.inp[1] s.inp[2]) (trailingByte cfg.rrespLen s.inp)
  if t.ckOk then (t.putRval (zext32 (le24 s.inp[0] s.inp[1] s.inp[2]))).endOk
  else t.endError stBadChecksum

/-! ## Events that are no operation -/

/-- A frame from the device is placed at `IN[0]` onward and nothing else changes: its arrival raises nothing (R51, R72, R206).
DEDUCED: notes/assumptions/3. -/
def receiveFrame (bs : List Byte) (s : State) : State := s.putInp (placeAt bs s.inp)

/-- A frame to the device passes the block by: the block never decodes a command byte, and only an operation or reset changes a register (R35, R84).
DEDUCED: notes/assumptions/3. -/
def frameToDevice (s : State) : State := s

/-- Reset sets every result register to its reset value and touches nothing of the user's (R230). -/
def resetBlock (s : State) : State := { State.reset with inp := s.inp, pending := s.pending }

/-- What a code that is no instruction does.  A rejected command is illegal (R75).
A malformed response frame still arrives; its header is checked by DEC_RESP and PARSE (R84, R163).
Other bytes on the link are no frame of the protocol and reach no port (R38, R169): notes/assumptions/7. -/
def rejected (c : Code) (r : Reject) (s : State) : State :=
  match c, r with
  | .command _ _, _ => s.illegal
  | .frame bs, .badHeader => receiveFrame bs s
  | .frame _, _ => s

end Sys2Proof.Machine
end

