-- ==== Sys2Proof/Machine/Checksum.lean ====
section
/-! DEFINITION. The checksum core and the response-frame checksum validator (spec/42_checksum.md). -/

namespace Sys2Proof.Machine

/-- CKSUM (R120). -/
def execCksum (seed : Byte) (len : Len) (s : State) : Host.Outcome State Fault Refusal :=
  .next (checksumOf hw seed len s)

/-- VAL_CK (R122). -/
def execValCk (addr : Addr) (s : State) : Host.Outcome State Fault Refusal :=
  .next (validateResponse hw addr s)

end Sys2Proof.Machine
end

