-- ==== Sys2Proof/Machine/Encoders.lean ====
section
/-! DEFINITION. The frame encoders and the little-endian packer (spec/41_encoders.md). -/

namespace Sys2Proof.Machine

/-- ENC_TREQ (R100). -/
def execEncTreq (addr : Addr) (s : State) : Host.Outcome State Fault Refusal :=
  .next (encodeFrame hw.rreqLen (telemetryRequest hw addr) s)

/-- ENC_RREQ (R102). -/
def execEncRreq (addr : Addr) (reg : Byte) (s : State) : Host.Outcome State Fault Refusal :=
  .next (encodeFrame hw.rreqLen (readRequest hw addr reg) s)

/-- ENC_WR (R104). -/
def execEncWr (addr : Addr) (reg : Byte) (value : Word) (s : State) : Host.Outcome State Fault Refusal :=
  .next (encodeWrite hw addr reg value s)

/-- PACK_LE (R106). -/
def execPackLe (value : Word) (s : State) : Host.Outcome State Fault Refusal :=
  .next (encodeFrame 3 (leBytes (value24 value)) s)

end Sys2Proof.Machine
end

