-- ==== Sys2Proof/Machine/Parser.lean ====
section
/-! DEFINITION. The response-frame parser (spec/44_response_parser.md). -/

namespace Sys2Proof.Machine

/-- DEC_RESP (R163). -/
def execDecResp (s : State) : Host.Outcome State Fault Refusal :=
  .next (decodeResponse hw s)

/-- PARSE (R165). -/
def execParse (addr : Addr) (s : State) : Host.Outcome State Fault Refusal :=
  .next (parseResponse hw addr s)

end Sys2Proof.Machine
end

