-- ==== Sys2Proof/Machine/Readback.lean ====
section
/-! DEFINITION. The register read-back validator (spec/45_readback.md). -/

namespace Sys2Proof.Machine

/-- VAL_RB (R180). -/
def execValRb (addr : Addr) (reg : Byte) (s : State) : Host.Outcome State Fault Refusal :=
  .next (validateReadback hw addr reg s)

end Sys2Proof.Machine
end

