-- ==== Sys2Proof/Machine/Reserved.lean ====
section
/-! DEFINITION. The four reserved op codes (spec/30_encoding.md R75): each sets `STATUS` to `ILLEGAL` and writes no other result register. -/

namespace Sys2Proof.Machine

/-- RESERVED, op 0x0 (R75). -/
def execReserved0 (s : State) : Host.Outcome State Fault Refusal := .next s.illegal

/-- RESERVED, op 0xD (R75). -/
def execReservedD (s : State) : Host.Outcome State Fault Refusal := .next s.illegal

/-- RESERVED, op 0xE (R75). -/
def execReservedE (s : State) : Host.Outcome State Fault Refusal := .next s.illegal

/-- RESERVED, op 0xF (R75). -/
def execReservedF (s : State) : Host.Outcome State Fault Refusal := .next s.illegal

end Sys2Proof.Machine
end

