-- ==== Sys2Proof/Machine/Unpack.lean ====
section
/-! DEFINITION. The 24-bit field unpackers (spec/43_field_unpack.md). -/

namespace Sys2Proof.Machine

/-- UNPK_BE_U (R140). -/
def execUnpkBeU (s : State) : Host.Outcome State Fault Refusal :=
  .next (unpack (zext32 (be24 s.inp[0] s.inp[1] s.inp[2])) s)

/-- UNPK_BE_S (R142). -/
def execUnpkBeS (s : State) : Host.Outcome State Fault Refusal :=
  .next (unpack (sext32 (be24 s.inp[0] s.inp[1] s.inp[2])) s)

/-- UNPK_LE_U (R144). -/
def execUnpkLeU (s : State) : Host.Outcome State Fault Refusal :=
  .next (unpack (zext32 (le24 s.inp[0] s.inp[1] s.inp[2])) s)

end Sys2Proof.Machine
end

