-- ==== Sys2Proof/Machine/Wire.lean ====
section
/-! DEFINITION. The wire frames at the block (spec/30_encoding.md R76 to R79, R84; spec/20_memory.md R51): a frame to the device leaves the block as it is, a frame from the device stands at `IN[0]` onward.  No result register changes on either (R35, R206). DEDUCED: notes/assumptions/3. -/

namespace Sys2Proof.Machine

/-- WIRE_TELEMETRY_REQUEST, host to device (R76, R84). -/
def execWireTelemetryRequest (_addr : Addr) (s : State) : Host.Outcome State Fault Refusal :=
  .next (frameToDevice s)

/-- WIRE_REGISTER_READ_REQUEST, host to device (R76, R84). -/
def execWireRegisterReadRequest (_addr : Addr) (_reg : Byte) (s : State) : Host.Outcome State Fault Refusal :=
  .next (frameToDevice s)

/-- WIRE_REGISTER_WRITE, host to device (R77, R84). -/
def execWireRegisterWrite (_addr : Addr) (_reg _lo _mid _hi _ck : Byte) (s : State) : Host.Outcome State Fault Refusal :=
  .next (frameToDevice s)

/-- WIRE_REGISTER_READ_RESPONSE, device to host: `IN[0..3]` (R72, R78). -/
def execWireRegisterReadResponse (lo mid hi ck : Byte) (s : State) : Host.Outcome State Fault Refusal :=
  .next (receiveFrame [lo, mid, hi, ck] s)

/-- WIRE_RESPONSE_FRAME, device to host: `IN[0..34]` (R72, R79). -/
def execWireResponseFrame (b : InBuf) (s : State) : Host.Outcome State Fault Refusal :=
  .next (receiveFrame b.toList s)

end Sys2Proof.Machine
end

