-- ==== Sys2Proof/Machine/Dispatch.lean ====
section
/-! DEFINITION. One arm per constructor of Instr, each one call of that instruction's meaning. -/

namespace Sys2Proof.Machine

/-- The meaning of an instruction (spec/30_encoding.md R74). -/
def exec (i : Instr) (s : State) : Host.Outcome State Fault Refusal :=
  match i with
  | .encTreq addr => Sys2Proof.Machine.execEncTreq addr s
  | .encRreq addr reg => Sys2Proof.Machine.execEncRreq addr reg s
  | .encWr addr reg value => Sys2Proof.Machine.execEncWr addr reg value s
  | .packLe value => Sys2Proof.Machine.execPackLe value s
  | .cksum seed len => Sys2Proof.Machine.execCksum seed len s
  | .valCk addr => Sys2Proof.Machine.execValCk addr s
  | .unpkBeU => Sys2Proof.Machine.execUnpkBeU s
  | .unpkBeS => Sys2Proof.Machine.execUnpkBeS s
  | .unpkLeU => Sys2Proof.Machine.execUnpkLeU s
  | .decResp => Sys2Proof.Machine.execDecResp s
  | .parse addr => Sys2Proof.Machine.execParse addr s
  | .valRb addr reg => Sys2Proof.Machine.execValRb addr reg s
  | .reserved0 => Sys2Proof.Machine.execReserved0 s
  | .reservedD => Sys2Proof.Machine.execReservedD s
  | .reservedE => Sys2Proof.Machine.execReservedE s
  | .reservedF => Sys2Proof.Machine.execReservedF s
  | .wireTelemetryRequest addr => Sys2Proof.Machine.execWireTelemetryRequest addr s
  | .wireRegisterReadRequest addr reg => Sys2Proof.Machine.execWireRegisterReadRequest addr reg s
  | .wireRegisterWrite addr reg lo mid hi ck => Sys2Proof.Machine.execWireRegisterWrite addr reg lo mid hi ck s
  | .wireRegisterReadResponse lo mid hi ck => Sys2Proof.Machine.execWireRegisterReadResponse lo mid hi ck s
  | .wireResponseFrame b => Sys2Proof.Machine.execWireResponseFrame b s

end Sys2Proof.Machine
end

