-- ==== Sys2Proof/Machine/Step.lean ====
section
/-! DEFINITION. One step: the next thing the user presents, taken whole (spec/20_memory.md R58, R60; spec/30_encoding.md R73). -/

namespace Sys2Proof.Machine

/-- One step: one event, atomically.  With nothing presented the block holds its registers (R35); IN is sampled as it stands (R239). -/
def step (s : State) : Host.Outcome State Fault Refusal :=
  match s.pending with
  | [] => .next s
  | .reset :: rest => .next (resetBlock (s.putPending rest))
  | .driveIn b :: rest => .next ((s.putPending rest).putInp b)
  | .present c :: rest =>
    match decode c with
    | .ok i => exec i (s.putPending rest)
    | .error r => .next (rejected c r (s.putPending rest))

/-- The state whose next step runs the table word `w`: its code presented before everything else pending. -/
def State.withFetchWord (s : State) (nbits w : Nat) : State :=
  s.putPending (.present (tableCode nbits w) :: s.pending)

end Sys2Proof.Machine
end

