-- ==== Sys2Proof/Machine/Session.lean ====
section
/-! DEFINITION. The block's user, as far as the spec lists it for a model of the user: the initialisation of the metering device (spec/70_reset_and_hazards.md R234) and when a data register is this operation's result (R232, R238; spec/44_response_parser.md R164). No meaning of an instruction uses this file. -/

namespace Sys2Proof.Machine

/-- Step 1's value, "magic" (R234). -/
def softResetMagic : Word := 0x5A5A5A
/-- Step 2's value, unlock (R234). -/
def writeUnlock : Word := 0x55
/-- Step 4's value, re-lock (R234). -/
def writeRelock : Word := 0
/-- The 60 Hz bit of the mode value (R234). -/
def sixtyHzBit : Word24 := 0x200

/-- Step 3's value: `default_mode | (0x200 if 60 Hz else 0)` (R234, P2). -/
def modeValue (sixtyHz : Bool) : Word24 := Config.defaultMode ||| (if sixtyHz then sixtyHzBit else 0)

/-- The commands of R234 up to the read request of step 5, in order. -/
def initCommands (addr : Addr) (sixtyHz : Bool) : List Instr :=
  [.encWr addr (Config.regId .softReset) softResetMagic,
   .encWr addr (Config.regId .writeProtect) writeUnlock,
   .encWr addr (Config.regId .mode) (zext32 (modeValue sixtyHz)),
   .encWr addr (Config.regId .writeProtect) writeRelock,
   .encRreq addr (Config.regId .mode)]

/-- The whole sequence of R234 as the user presents it, with the device's reply to step 5. -/
def initEvents (addr : Addr) (sixtyHz : Bool) (reply : List Byte) : List Event :=
  (initCommands addr sixtyHz).map (fun i => .present (encode i)) ++
    [.present (.frame reply), .present (encode (.valRb addr (Config.regId .mode)))]

/-- The data registers, which an operation that ends in an error never writes (R32). -/
inductive DataReg where
  | field | rval
  deriving DecidableEq, Repr

/-- The data register an instruction writes on success (R31). -/
def dataReg : Instr → Option DataReg
  | .encTreq _ => none
  | .encRreq _ _ => none
  | .encWr _ _ _ => none
  | .packLe _ => none
  | .cksum _ _ => none
  | .valCk _ => none
  | .unpkBeU => some .rval
  | .unpkBeS => some .rval
  | .unpkLeU => some .rval
  | .decResp => some .field
  | .parse _ => some .field
  | .valRb _ _ => some .rval
  | .reserved0 => none
  | .reservedD => none
  | .reservedE => none
  | .reservedF => none
  | .wireTelemetryRequest _ => none
  | .wireRegisterReadRequest _ _ => none
  | .wireRegisterWrite _ _ _ _ _ _ => none
  | .wireRegisterReadResponse _ _ _ _ => none
  | .wireResponseFrame _ => none

/-- A data register is an operation's own result only if the operation writes it and ended `OK`; otherwise what it holds is stale (R164, R232, R238, I13). -/
def freshAfter (i : Instr) (r : DataReg) (t : State) : Bool := dataReg i == some r && t.status == stOk

/-- What a user may present: no command the block calls illegal (I8, I9). -/
def userMayPresent (c : Code) : Bool :=
  match decode c with
  | .ok i => !([Instr.reserved0, .reservedD, .reservedE, .reservedF].contains i)
  | .error _ => false

end Sys2Proof.Machine
end

