-- ==== Sys2Proof/Safety.lean ====
section
/-! DEFINITION. What holds of every state a run can reach (spec/10_state.md R31, R33, R34; spec/44_response_parser.md R162), what a safe run is, and the part of IN an operation reads (spec/30_encoding.md R82). -/

namespace Sys2Proof.Machine

/-- The `STATUS` codes the block writes: 4, 5 and 6 are never written (R33). -/
def legalStatus (c : StatusCode) : Prop :=
  c = stNone ∨ c = stOk ∨ c = stBadChecksum ∨ c = stBadHeader ∨ c = stIllegal

/-- The legal values of `OUT_LEN` (R31). -/
def legalOutLen (n : BitVec 3) : Prop := n = 0 ∨ n = 2 ∨ n = 3 ∨ n = 6

/-- A word that is `zext_32` or `sext_32` of a 24-bit value (R31). -/
def widened (w : Word) : Prop := ∃ v : Word24, w = zext32 v ∨ w = sext32 v

/-- The legal values of every result register (R31), and what they say of one another. -/
structure Inv (s : State) : Prop where
  /-- `STATUS` holds one of the five codes (R33). -/
  status_legal : legalStatus s.status
  /-- `OUT_LEN` is 0, 2, 3 or 6 (R31). -/
  outLen_legal : legalOutLen s.outLen
  /-- `OUT` is 0x00 at index `OUT_LEN` and above (41_encoders.md). -/
  out_padded : ∀ k : Fin 6, s.outLen.toNat ≤ k.val → s.out[k] = 0
  /-- `FIELD[k]` is a 24-bit value widened as slot k's signedness says (R31, R162). -/
  field_widened : ∀ k : Fin 11, ∃ v : Word24, s.field[k] = widen hw.slots[k].signed v
  /-- `RVAL` is a widened 24-bit value (R31). -/
  rval_widened : widened s.rval
  /-- `BAD_CHECKSUM` is only ever left with `CK_OK` 0 (R200). -/
  badChecksum_ckOk : s.status = stBadChecksum → s.ckOk = false

/-- A safe step: it answers a next state, and that state keeps the invariant. -/
def SafeStep (s : State) : Prop := ∃ t, step s = .next t ∧ Inv t

/-- How many bytes of `IN`, from index 0 on, an operation reads (R82). -/
def readCount : Instr → Nat
  | .encTreq _ => 0
  | .encRreq _ _ => 0
  | .encWr _ _ _ => 0
  | .packLe _ => 0
  | .cksum _ len => len.toNat
  | .valCk _ => 35
  | .unpkBeU => 3
  | .unpkBeS => 3
  | .unpkLeU => 3
  | .decResp => 34
  | .parse _ => 35
  | .valRb _ _ => 4
  | .reserved0 => 0
  | .reservedD => 0
  | .reservedE => 0
  | .reservedF => 0
  | .wireTelemetryRequest _ => 0
  | .wireRegisterReadRequest _ _ => 0
  | .wireRegisterWrite _ _ _ _ _ _ => 0
  | .wireRegisterReadResponse _ _ _ _ => 0
  | .wireResponseFrame _ => 0

/-- Is this row a wire frame, not a command? -/
def isWireFrame : Instr → Bool
  | .wireTelemetryRequest _ => true
  | .wireRegisterReadRequest _ _ => true
  | .wireRegisterWrite _ _ _ _ _ _ => true
  | .wireRegisterReadResponse _ _ _ _ => true
  | .wireResponseFrame _ => true
  | .encTreq _ => false
  | .encRreq _ _ => false
  | .encWr _ _ _ => false
  | .packLe _ => false
  | .cksum _ _ => false
  | .valCk _ => false
  | .unpkBeU => false
  | .unpkBeS => false
  | .unpkLeU => false
  | .decResp => false
  | .parse _ => false
  | .valRb _ _ => false
  | .reserved0 => false
  | .reservedD => false
  | .reservedE => false
  | .reservedF => false

end Sys2Proof.Machine
end

