-- ==== Sys2Proof/Certificates/Slice0/Obligations.lean ====
section
/-! DEFINITION. The statements for the provers, from the numbered rules of spec/. -/

open Sys2Proof Sys2Proof.Machine

namespace Sys2Proof.Spec

/-- The checksum as the closed formula of spec/00_scope.md section 5: `((seed + sum(b)) mod 256) ^ 0xFF`, the sum taken over the integers. -/
def ck (seed : Byte) (b : List Byte) : Byte := BitVec.ofNat 8 (seed.toNat + (b.map BitVec.toNat).sum) ^^^ 0xFF#8

/-- `(x << 16) | (y << 8) | z`, 24 bits wide, as spec/00_scope.md R15 writes BE24 and LE24. -/
def join24 (x y z : Byte) : Word24 := (x.setWidth 24 <<< 16) ||| (y.setWidth 24 <<< 8) ||| z.setWidth 24

/-- `sext_32` as spec/00_scope.md R16 writes it. -/
def sext (v : Word24) : Word := if v[23] then v.setWidth 32 ||| 0xFF000000#32 else v.setWidth 32

/-- The signed slots of spec/44_response_parser.md R162. -/
def signedSlot (k : Nat) : Bool := k = 3 ∨ k = 4 ∨ k = 9 ∨ k = 10

/-- Slot k of a frame decoded as R163 writes it. -/
def slotValue (b : InBuf) (k : Fin 11) : Word :=
  let v := join24 (b[1 + 3 * k.val]'(by omega)) (b[2 + 3 * k.val]'(by omega)) (b[3 + 3 * k.val]'(by omega))
  if signedSlot k.val then sext v else v.setWidth 32

/-- The illegal commands of spec/30_encoding.md R75. -/
def illegalCmd (cmd : Word) : Prop :=
  cmd.extractLsb' 0 4 = 0x0#4 ∨ cmd.extractLsb' 0 4 = 0xD#4 ∨ cmd.extractLsb' 0 4 = 0xE#4 ∨ cmd.extractLsb' 0 4 = 0xF#4 ∨
  cmd.extractLsb' 22 2 ≠ 0#2 ∨ (cmd.extractLsb' 0 4 = 0x5#4 ∧ 35 < (cmd.extractLsb' 16 6).toNat)

/-- Every command with op code `op` and `rsv` 0 decodes to `i cmd value`, whatever its other bits are. -/
def opDecodes (op : BitVec 4) (i : Word → Word → Instr) : Prop :=
  ∀ cmd value : Word, cmd.extractLsb' 0 4 = op → cmd.extractLsb' 22 2 = 0#2 → decode (.command cmd value) = .ok (i cmd value)

end Sys2Proof.Spec

open Sys2Proof.Spec

/-! ## The operations: result, frame, completion and encoding -/

/-- R100, whole: the op code, the bytes, the registers written, and that nothing else changes; no field but `addr` and no other input matters. -/
def Obligations.EncTreqBuildsTelemetryRequest : Prop :=
  (∀ (s : State) (addr : Addr), exec (.encTreq addr) s =
    .next { s with out := #v[0x50#8 ||| addr.setWidth 8, 0xAA#8, 0, 0, 0, 0], outLen := 2, status := 1 }) ∧
  opDecodes 0x1#4 (fun cmd _ => .encTreq (cmd.extractLsb' 4 4))

/-- R102, whole: every register id is accepted. -/
def Obligations.EncRreqBuildsRegisterReadRequest : Prop :=
  (∀ (s : State) (addr : Addr) (reg : Byte), exec (.encRreq addr reg) s =
    .next { s with out := #v[0x50#8 ||| addr.setWidth 8, reg, 0, 0, 0, 0], outLen := 2, status := 1 }) ∧
  opDecodes 0x2#4 (fun cmd _ => .encRreq (cmd.extractLsb' 4 4) (cmd.extractLsb' 8 8))

/-- R104, whole: the six bytes, the checksum from seed 0 over the first five, also in CK; bits 31:24 of VALUE are discarded. -/
def Obligations.EncWrBuildsRegisterWriteFrame : Prop :=
  (∀ (s : State) (addr : Addr) (reg : Byte) (value : Word),
    let b : List Byte := [0xA0#8 ||| addr.setWidth 8, reg, value.extractLsb' 0 8, value.extractLsb' 8 8, value.extractLsb' 16 8]
    exec (.encWr addr reg value) s =
      .next { s with
        out := #v[0xA0#8 ||| addr.setWidth 8, reg, value.extractLsb' 0 8, value.extractLsb' 8 8, value.extractLsb' 16 8, ck 0 b],
        outLen := 6, ck := ck 0 b, status := 1 }) ∧
  opDecodes 0x3#4 (fun cmd value => .encWr (cmd.extractLsb' 4 4) (cmd.extractLsb' 8 8) value)

/-- R106, whole: the three bytes low first, and that UNPK_LE_U of them gives the 24 bits back. -/
def Obligations.PackLeSplitsValueLowByteFirst : Prop :=
  (∀ (s : State) (value : Word), exec (.packLe value) s =
    .next { s with
      out := #v[value.extractLsb' 0 8, value.extractLsb' 8 8, value.extractLsb' 16 8, 0, 0, 0], outLen := 3, status := 1 }) ∧
  opDecodes 0x4#4 (fun _ value => .packLe value) ∧
  (∀ (s : State) (value : Word), s.inp[0] = value.extractLsb' 0 8 → s.inp[1] = value.extractLsb' 8 8 →
    s.inp[2] = value.extractLsb' 16 8 →
    exec .unpkLeU s = .next { s with rval := (value.extractLsb' 0 24).setWidth 32, status := 1 })

/-- R120, whole: the sum and inversion of the first `len` bytes for `len` 0..35, ILLEGAL and nothing else above. -/
def Obligations.CksumSumsAndInvertsThePrefix : Prop :=
  (∀ (s : State) (seed : Byte) (len : Len), len.toNat ≤ 35 →
    exec (.cksum seed len) s = .next { s with ck := ck seed (s.inp.toList.take len.toNat), status := 1 }) ∧
  (∀ (s : State) (seed : Byte) (len : Len), 35 < len.toNat → exec (.cksum seed len) s = .next { s with status := 7 }) ∧
  (∀ cmd value : Word, cmd.extractLsb' 0 4 = 0x5#4 → cmd.extractLsb' 22 2 = 0#2 →
    decode (.command cmd value) =
      if (cmd.extractLsb' 16 6).toNat ≤ 35 then .ok (.cksum (cmd.extractLsb' 24 8) (cmd.extractLsb' 16 6))
      else .error .lenOutOfRange)

/-- R122, whole: seed `0x50 | addr`, bytes 0..33, compared with byte 34; the header is not checked. -/
def Obligations.ValCkComparesTrailingByte : Prop :=
  (∀ (s : State) (addr : Addr),
    let c := ck (0x50#8 ||| addr.setWidth 8) (s.inp.toList.take 34)
    exec (.valCk addr) s =
      .next { s with ck := c, ckOk := decide (c = s.inp[34]), status := if c = s.inp[34] then 1 else 2 }) ∧
  opDecodes 0x6#4 (fun cmd _ => .valCk (cmd.extractLsb' 4 4))

/-- R140, whole: big-endian, zero-extended. -/
def Obligations.UnpkBeUAssemblesBigEndianUnsigned : Prop :=
  (∀ s : State, exec .unpkBeU s =
    .next { s with rval := (join24 s.inp[0] s.inp[1] s.inp[2]).setWidth 32, status := 1 }) ∧
  opDecodes 0x7#4 (fun _ _ => .unpkBeU)

/-- R142, whole: big-endian, sign-extended from bit 23, which is bit 7 of the first byte. -/
def Obligations.UnpkBeSSignExtendsFromBit23 : Prop :=
  (∀ s : State, exec .unpkBeS s =
    .next { s with
      rval := if s.inp[0][7] then (join24 s.inp[0] s.inp[1] s.inp[2]).setWidth 32 ||| 0xFF000000#32
              else (join24 s.inp[0] s.inp[1] s.inp[2]).setWidth 32,
      status := 1 }) ∧
  opDecodes 0x8#4 (fun _ _ => .unpkBeS)

/-- R144, whole: little-endian, zero-extended. -/
def Obligations.UnpkLeUAssemblesLittleEndianUnsigned : Prop :=
  (∀ s : State, exec .unpkLeU s =
    .next { s with rval := (join24 s.inp[2] s.inp[1] s.inp[0]).setWidth 32, status := 1 }) ∧
  opDecodes 0x9#4 (fun _ _ => .unpkLeU)

/-- R163, whole: with a good header all eleven fields and OK, with any other header BAD_HEADER and nothing else. -/
def Obligations.DecRespChecksHeaderAndExtractsFields : Prop :=
  (∀ s : State, s.inp[0] = 0x55#8 → exec .decResp s = .next { s with field := Vector.ofFn (slotValue s.inp), status := 1 }) ∧
  (∀ s : State, s.inp[0] ≠ 0x55#8 → exec .decResp s = .next { s with status := 3 }) ∧
  opDecodes 0xA#4 (fun _ _ => .decResp)

/-- R165, whole: the checksum first, then the header, then the fields. -/
def Obligations.ParseValidatesThenDecodes : Prop :=
  (∀ (s : State) (addr : Addr),
    let c := ck (0x50#8 ||| addr.setWidth 8) (s.inp.toList.take 34)
    exec (.parse addr) s =
      if c ≠ s.inp[34] then .next { s with ck := c, ckOk := false, status := 2 }
      else if s.inp[0] ≠ 0x55#8 then .next { s with ck := c, ckOk := true, status := 3 }
      else .next { s with ck := c, ckOk := true, field := Vector.ofFn (slotValue s.inp), status := 1 }) ∧
  opDecodes 0xB#4 (fun cmd _ => .parse (cmd.extractLsb' 4 4))

/-- R180, whole: seed `0x50 + addr`, over the register id and the three value bytes; RVAL only on a match. -/
def Obligations.ValRbChecksThenAssemblesReadback : Prop :=
  (∀ (s : State) (addr : Addr) (reg : Byte),
    let c := ck (0x50#8 + addr.setWidth 8) [reg, s.inp[0], s.inp[1], s.inp[2]]
    exec (.valRb addr reg) s =
      if c ≠ s.inp[3] then .next { s with ck := c, ckOk := false, status := 2 }
      else .next { s with ck := c, ckOk := true, rval := (join24 s.inp[2] s.inp[1] s.inp[0]).setWidth 32, status := 1 }) ∧
  opDecodes 0xC#4 (fun cmd _ => .valRb (cmd.extractLsb' 4 4) (cmd.extractLsb' 8 8))

/-! ## Illegal commands -/

/-- R75: the four reserved op codes set STATUS to ILLEGAL and write no other result register, whatever the other bits of CMD are.
That a reserved op code decodes to its RESERVED row where `rsv` is not 0 too, and is not rejected for `rsv`, is the model's choice (DEDUCED, notes/assumptions/5): R75's decoder tests `rsv` first, with the same effect. -/
def Obligations.ReservedOpCodesWriteOnlyIllegal : Prop :=
  (∀ s : State, exec .reserved0 s = .next { s with status := 7 } ∧ exec .reservedD s = .next { s with status := 7 } ∧
    exec .reservedE s = .next { s with status := 7 } ∧ exec .reservedF s = .next { s with status := 7 }) ∧
  (∀ cmd value : Word,
    (cmd.extractLsb' 0 4 = 0x0#4 → decode (.command cmd value) = .ok .reserved0) ∧
    (cmd.extractLsb' 0 4 = 0xD#4 → decode (.command cmd value) = .ok .reservedD) ∧
    (cmd.extractLsb' 0 4 = 0xE#4 → decode (.command cmd value) = .ok .reservedE) ∧
    (cmd.extractLsb' 0 4 = 0xF#4 → decode (.command cmd value) = .ok .reservedF))

/-- R75 over every command word, as one step: an illegal one writes STATUS alone, a legal one runs its instruction and does not end ILLEGAL.
The queue `pending` is the model's (notes/assumptions/1). -/
def Obligations.ExactlyTheIllegalCommandsEndIllegal : Prop :=
  ∀ (s : State) (cmd value : Word) (rest : List Event), s.pending = .present (.command cmd value) :: rest →
    (illegalCmd cmd → step s = .next { s with status := 7, pending := rest }) ∧
    (¬ illegalCmd cmd → ∃ i t, decode (.command cmd value) = .ok i ∧ i.wf = true ∧
      step s = exec i { s with pending := rest } ∧ step s = .next t ∧ t.status ≠ 7)

/-- R82: two commands that agree on the op code, on `rsv` and on the fields the operation reads do the same.  The queue is the model's (notes/assumptions/1). -/
def Obligations.UnreadOperandsHaveNoEffect : Prop :=
  ∀ (s : State) (cmd cmd' value value' : Word) (rest : List Event),
    cmd.extractLsb' 0 4 = cmd'.extractLsb' 0 4 → cmd.extractLsb' 22 2 = cmd'.extractLsb' 22 2 →
    ((cmd.extractLsb' 0 4).toNat ∈ [1, 2, 3, 6, 0xB, 0xC] → cmd.extractLsb' 4 4 = cmd'.extractLsb' 4 4) →
    ((cmd.extractLsb' 0 4).toNat ∈ [2, 3, 0xC] → cmd.extractLsb' 8 8 = cmd'.extractLsb' 8 8) →
    ((cmd.extractLsb' 0 4).toNat = 5 → cmd.extractLsb' 16 6 = cmd'.extractLsb' 16 6 ∧ cmd.extractLsb' 24 8 = cmd'.extractLsb' 24 8) →
    ((cmd.extractLsb' 0 4).toNat ∈ [3, 4] → value.extractLsb' 0 24 = value'.extractLsb' 0 24) →
    step { s with pending := .present (.command cmd value) :: rest } =
      step { s with pending := .present (.command cmd' value') :: rest }

/-- R57, R82: bytes of IN at and past the count an operation reads influence no result register. -/
def Obligations.UnreadInputBytesHaveNoEffect : Prop :=
  ∀ (i : Instr) (s : State) (b : InBuf), isWireFrame i = false →
    (∀ j : Fin 35, j.val < readCount i → b[j] = s.inp[j]) →
    ∃ t, exec i s = .next t ∧ exec i { s with inp := b } = .next { t with inp := b }

/-! ## Checksum, assemblers, widening -/

/-- R14's closed formula and its order independence, for the model's checksum on this hardware.  The formula is the spec's own derivation there. -/
def Obligations.ChecksumIsTheOrderFreeSum : Prop :=
  ∀ (seed : Byte) (b : List Byte), Machine.cksum hw seed b = ck seed b ∧
    ∀ b' : List Byte, b.Perm b' → Machine.cksum hw seed b' = Machine.cksum hw seed b

/-- R15: the assemblers are the shifts and ORs of the rule, LEbytes is low byte first, and LE24 undoes LEbytes. -/
def Obligations.AssemblersAreShiftsAndOrs : Prop :=
  (∀ h m l : Byte, be24 h m l = join24 h m l) ∧
  (∀ lo mid hi : Byte, le24 lo mid hi = join24 hi mid lo) ∧
  (∀ v : Word24, leBytes v = [v.extractLsb' 0 8, v.extractLsb' 8 8, v.extractLsb' 16 8]) ∧
  (∀ v : Word24, le24 (v.extractLsb' 0 8) (v.extractLsb' 8 8) (v.extractLsb' 16 8) = v)

/-- R16: sign extension from bit 23, as bits and as an integer. -/
def Obligations.SignExtensionIsFromBit23 : Prop :=
  ∀ v : Word24, sext32 v = sext v ∧ (sext32 v).toInt = if v[23] then (v.toNat : Int) - 16777216 else (v.toNat : Int)

/-- The command byte (30_encoding.md section 4): the OR never carries, and the address reads back from the low nibble. -/
def Obligations.CommandByteKeepsTheAddress : Prop :=
  ∀ addr : Addr,
    cmdByte hw.readOpcode addr = 0x50#8 + addr.setWidth 8 ∧ (cmdByte hw.readOpcode addr).extractLsb' 0 4 = addr ∧
    cmdByte hw.writeOpcode addr = 0xA0#8 + addr.setWidth 8 ∧ (cmdByte hw.writeOpcode addr).extractLsb' 0 4 = addr

/-- 41_encoders.md, derived there: the six bytes of an ENC_WR frame sum to 0xFF modulo 256. -/
def Obligations.WriteFrameChecksItself : Prop :=
  ∀ (s t : State) (addr : Addr) (reg : Byte) (value : Word), exec (.encWr addr reg value) s = .next t →
    ((t.out.toList.map BitVec.toNat).sum) % 256 = 0xFF

/-- 42_checksum.md, derived there: any change of exactly one byte of a frame that passes VAL_CK makes it fail. -/
def Obligations.SingleByteErrorIsDetected : Prop :=
  ∀ (s t : State) (addr : Addr) (j : Fin 35) (x : Byte), exec (.valCk addr) s = .next t → t.ckOk = true → x ≠ s.inp[j] →
    ∃ t', exec (.valCk addr) { s with inp := s.inp.set j x } = .next t' ∧ t'.ckOk = false ∧ t'.status = 2

/-- 42_checksum.md, derived there: any reordering of bytes 0..33 passes undetected, with the same CK, CK_OK and STATUS. -/
def Obligations.ReorderedFrameIsNotDetected : Prop :=
  ∀ (s : State) (b : InBuf) (addr : Addr), (b.toList.take 34).Perm (s.inp.toList.take 34) → b[34] = s.inp[34] →
    ∃ t, exec (.valCk addr) s = .next t ∧ exec (.valCk addr) { s with inp := b } = .next { t with inp := b }

/-- 42_checksum.md, derived there: one address at most makes a frame pass, and the computed checksum falls by 1 from an address to the next. -/
def Obligations.SeedBindsAFrameToOneAddress : Prop :=
  (∀ (s t t' : State) (a a' : Addr), exec (.valCk a) s = .next t → exec (.valCk a') s = .next t' →
    t.ckOk = true → t'.ckOk = true → a = a') ∧
  (∀ (s t t' : State) (a : Addr), a.toNat < 15 → exec (.valCk a) s = .next t → exec (.valCk (a + 1)) s = .next t' →
    t'.ck = t.ck - 1)

/-- 43_field_unpack.md, derived there: the signed and unsigned readings agree exactly when the first byte is below 0x80, and otherwise differ by 0xFF000000. -/
def Obligations.SignedAndUnsignedReadingsCompared : Prop :=
  ∀ s t u : State, exec .unpkBeS s = .next t → exec .unpkBeU s = .next u →
    (t.rval = u.rval ↔ s.inp[0].toNat < 0x80) ∧ (0x80 ≤ s.inp[0].toNat → t.rval = u.rval + 0xFF000000#32)

/-- 43_field_unpack.md, derived there: PACK_LE then UNPK_LE_U on OUT[0..2] gives the 24 bits back, and UNPK_BE_U split most-significant first gives its bytes back. -/
def Obligations.PackAndUnpackRoundTrip : Prop :=
  (∀ (s t u : State) (value : Word), exec (.packLe value) s = .next t →
    u.inp[0] = t.out[0] → u.inp[1] = t.out[1] → u.inp[2] = t.out[2] →
    exec .unpkLeU u = .next { u with rval := (value.extractLsb' 0 24).setWidth 32, status := 1 }) ∧
  (∀ s t : State, exec .unpkBeU s = .next t →
    t.rval.extractLsb' 16 8 = s.inp[0] ∧ t.rval.extractLsb' 8 8 = s.inp[1] ∧ t.rval.extractLsb' 0 8 = s.inp[2])

/-! ## Parser and read-back -/

/-- R166: when both checks fail, the checksum failure is the one reported. -/
def Obligations.ChecksumFailureTakesPrecedence : Prop :=
  ∀ (s : State) (addr : Addr), ck (0x50#8 ||| addr.setWidth 8) (s.inp.toList.take 34) ≠ s.inp[34] → s.inp[0] ≠ 0x55#8 →
    ∃ t, exec (.parse addr) s = .next t ∧ t.status = 2 ∧ t.ckOk = false ∧ t.field = s.field

/-- 44_response_parser.md, derived there: PARSE of the well-formed frame of eleven 24-bit values recovers them, sign-extended in the signed slots. -/
def Obligations.ParseRecoversTheEncodedFields : Prop :=
  ∀ (s : State) (addr : Addr) (u : Vector Word24 11), s.inp = responseFrame hw addr u →
    ∃ t, exec (.parse addr) s = .next t ∧ t = { s with ck := s.inp[34], ckOk := true, field := t.field, status := 1 } ∧
      ∀ k : Fin 11, t.field[k] = if signedSlot k.val then sext u[k] else u[k].setWidth 32

/-- The same round trip for every configuration record whose lengths agree with its frame and with the ports: other constants, fewer fields in a shorter frame, another slot map, the other byte order (00_scope.md section 4, 93_implementation_defined.md I2, I3, I14).
The fields past `NFIELDS` keep their values.  That the operations are written over any such record is the model's choice (notes/assumptions/8). -/
def Obligations.ParseRoundTripInEveryConfiguration : Prop :=
  ∀ (cfg : Config) (s : State) (addr : Addr) (u : Vector Word24 11), cfg.fits → s.inp = responseFrame cfg addr u →
    ∃ t, parseResponse cfg addr s = t ∧ t = { s with ck := t.ck, ckOk := true, field := t.field, status := 1 } ∧
      t.ck = trailingByte cfg.respLen s.inp ∧
      ∀ k : Fin 11, t.field[k] =
        if k.val < cfg.nFields then (if cfg.slots[k].signed then sext u[k] else u[k].setWidth 32) else s.field[k]

/-- 44_response_parser.md section 3: PARSE is VAL_CK and then, only where that ended OK, DEC_RESP. -/
def Obligations.ParseIsValCkThenDecResp : Prop :=
  ∀ (s t : State) (addr : Addr), exec (.valCk addr) s = .next t →
    (t.status = 1 → exec (.parse addr) s = exec .decResp t) ∧ (t.status ≠ 1 → exec (.parse addr) s = .next t)

/-- 45_readback.md, a corner case of VAL_RB: a response that passes for one address and id fails for the same address with another id, and for another address with the same id. -/
def Obligations.WrongIdOrAddressFailsReadback : Prop :=
  ∀ (s t : State) (a : Addr) (r : Byte), exec (.valRb a r) s = .next t → t.status = 1 →
    (∀ r', r' ≠ r → ∃ t', exec (.valRb a r') s = .next t' ∧ t'.status = 2 ∧ t'.rval = s.rval) ∧
    (∀ a', a' ≠ a → ∃ t', exec (.valRb a' r) s = .next t' ∧ t'.status = 2 ∧ t'.rval = s.rval)

/-- 45_readback.md, derived there: the correct response to a read of the value an ENC_WR frame wrote gives that value; its bytes are OUT[2..4] of the write frame, and its checksum is OUT[5] plus 0x50. -/
def Obligations.ReadbackAfterWriteGivesTheValue : Prop :=
  ∀ (s t u : State) (a : Addr) (r : Byte) (value : Word), exec (.encWr a r value) s = .next t →
    u.inp[0] = t.out[2] → u.inp[1] = t.out[3] → u.inp[2] = t.out[4] → u.inp[3] = t.out[5] + 0x50#8 →
    exec (.valRb a r) u =
      .next { u with ck := u.inp[3], ckOk := true, rval := (value.extractLsb' 0 24).setWidth 32, status := 1 }

/-- 70_reset_and_hazards.md, derived there: FIELD is this frame's data after a DEC_RESP or PARSE that ended OK, RVAL is the value of this operation's bytes after an unpacker, and after a VAL_RB that ended OK; a data register that is not fresh keeps its earlier value. -/
def Obligations.FreshDataIsThisOperationsResult : Prop :=
  ∀ (i : Instr) (s t : State), exec i s = .next t →
    (freshAfter i .field t = true → (i = .decResp ∨ ∃ a, i = .parse a) ∧ t.field = Vector.ofFn (slotValue s.inp)) ∧
    (freshAfter i .rval t = true →
      (i = .unpkBeU ∧ t.rval = (join24 s.inp[0] s.inp[1] s.inp[2]).setWidth 32) ∨
      (i = .unpkBeS ∧ t.rval = sext (join24 s.inp[0] s.inp[1] s.inp[2])) ∨
      ((i = .unpkLeU ∨ ∃ a r, i = .valRb a r) ∧ t.rval = (join24 s.inp[2] s.inp[1] s.inp[0]).setWidth 32)) ∧
    (freshAfter i .field t = false → t.field = s.field) ∧ (freshAfter i .rval t = false → t.rval = s.rval)

/-! ## Whole-machine rules -/

/-- 10_state.md R31 (written by), R32: each result register is written by the named operations only, STATUS by operations and by no wire frame, and the data registers only on success.
What a wire frame does, and that it writes no result register, is the model's reading (notes/assumptions/3). -/
def Obligations.OnlyTheNamedOperationsWriteARegister : Prop :=
  ∀ (i : Instr) (s t : State), exec i s = .next t →
    (t.out ≠ s.out ∨ t.outLen ≠ s.outLen →
      (∃ a, i = .encTreq a) ∨ (∃ a r, i = .encRreq a r) ∨ (∃ a r v, i = .encWr a r v) ∨ (∃ v, i = .packLe v)) ∧
    (t.field ≠ s.field → t.status = 1 ∧ (i = .decResp ∨ ∃ a, i = .parse a)) ∧
    (t.rval ≠ s.rval → t.status = 1 ∧ (i = .unpkBeU ∨ i = .unpkBeS ∨ i = .unpkLeU ∨ ∃ a r, i = .valRb a r)) ∧
    (t.ck ≠ s.ck → (∃ c n, i = .cksum c n) ∨ (∃ a r v, i = .encWr a r v) ∨ (∃ a, i = .valCk a) ∨
      (∃ a, i = .parse a) ∨ ∃ a r, i = .valRb a r) ∧
    (t.ckOk ≠ s.ckOk → (∃ a, i = .valCk a) ∨ (∃ a, i = .parse a) ∨ ∃ a r, i = .valRb a r) ∧
    (t.status ≠ s.status → isWireFrame i = false) ∧
    (t.inp ≠ s.inp → isWireFrame i = true) ∧ t.pending = s.pending

/-- R34: VAL_CK, PARSE and VAL_RB set CK_OK to 1 exactly when the computed checksum, which they leave in CK, equals the received byte; nothing else writes it but reset, which clears it; no operation reads it. -/
def Obligations.CkOkIsTheHeldCheckResult : Prop :=
  (∀ (s : State) (a : Addr) (r : Byte), ∃ t u v, exec (.valCk a) s = .next t ∧ exec (.parse a) s = .next u ∧
    exec (.valRb a r) s = .next v ∧ (t.ckOk = true ↔ t.ck = s.inp[34]) ∧ (u.ckOk = true ↔ u.ck = s.inp[34]) ∧
    (v.ckOk = true ↔ v.ck = s.inp[3])) ∧
  (∀ (i : Instr) (s t : State), exec i s = .next t → (∀ a, i ≠ .valCk a) → (∀ a, i ≠ .parse a) → (∀ a r, i ≠ .valRb a r) →
    t.ckOk = s.ckOk) ∧
  (∀ s : State, (resetBlock s).ckOk = false) ∧
  (∀ (i : Instr) (s : State) (x : Bool), ∃ t t', exec i s = .next t ∧ exec i { s with ckOk := x } = .next t' ∧
    t' = { t with ckOk := t'.ckOk })

/-- R38: an operation's result depends only on its inputs, except that registers it does not write keep their values: from two states with the same IN, every register ends equal, or untouched in both, and STATUS ends equal. -/
def Obligations.ResultsDependOnInputsOnly : Prop :=
  ∀ (i : Instr) (s s' : State), isWireFrame i = false → s.inp = s'.inp →
    ∃ t t', exec i s = .next t ∧ exec i s' = .next t' ∧ t.status = t'.status ∧
      (t.out = t'.out ∧ t.outLen = t'.outLen ∨ t.out = s.out ∧ t.outLen = s.outLen ∧ t'.out = s'.out ∧ t'.outLen = s'.outLen) ∧
      (t.field = t'.field ∨ t.field = s.field ∧ t'.field = s'.field) ∧
      (t.rval = t'.rval ∨ t.rval = s.rval ∧ t'.rval = s'.rval) ∧
      (t.ck = t'.ck ∨ t.ck = s.ck ∧ t'.ck = s'.ck) ∧
      (t.ckOk = t'.ckOk ∨ t.ckOk = s.ckOk ∧ t'.ckOk = s'.ckOk)

/-- R201: no error stops the block; every step answers a next state, and a later operation's STATUS does not depend on an earlier one's.  The step's queue is the model's (notes/assumptions/1). -/
def Obligations.NoErrorStopsTheBlock : Prop :=
  (∀ s : State, ∃ t, step s = .next t) ∧
  (∀ (i : Instr) (s : State) (c : StatusCode), isWireFrame i = false → exec i { s with status := c } = exec i s)

/-- The legal register values (10_state.md section 1, 44_response_parser.md section 1) and what BAD_CHECKSUM says of CK_OK, kept by every step from every state that has them.  The step's queue is the model's (notes/assumptions/1). -/
def Obligations.StepKeepsTheInvariant : Prop := ∀ s t : State, Inv s → step s = .next t → Inv t

/-- The invariant holds right after reset, at the values the spec decides for reset (D8). -/
def Obligations.InvariantHoldsAtReset : Prop := Inv State.reset

/-- R230: reset sets every result register to its reset value, at power-on and as the reset event. The values are the spec's own decision D8.  That the user's `inp` and `pending` stay is notes/assumptions/1 and is not stated here. -/
def Obligations.ResetSetsEveryResultRegister : Prop :=
  ∀ s : State, ∀ r ∈ [State.reset, resetBlock s],
    r.out = #v[0, 0, 0, 0, 0, 0] ∧ r.outLen = 0 ∧ r.field = #v[0, 0, 0, 0, 0, 0, 0, 0, 0, 0, 0] ∧ r.rval = 0 ∧ r.ck = 0 ∧
    r.ckOk = false ∧ r.status = 0

/-! ## Steps and encodings -/

/-- A step runs the decoded instruction, on the state less the event taken; it adds nothing around exec.  The queue is the model's choice, notes/assumptions/1 and 2. -/
def Obligations.StepRunsTheDecodedInstruction : Prop :=
  ∀ (s : State) (c : Code) (i : Instr) (rest : List Event), s.pending = .present c :: rest → decode c = .ok i →
    step s = exec i { s with pending := rest }

/-- What a step does with the events that are no instruction: nothing presented, IN driven, reset, a rejected command, a rejected frame.  The queue is the model's choice, notes/assumptions/1.
That a malformed response frame stands in IN all the same, with every result register as it was, and that bytes that are no frame of the protocol change nothing, is the model's reading (DEDUCED, notes/assumptions/7). -/
def Obligations.StepTakesTheOtherEvents : Prop :=
  (∀ s : State, s.pending = [] → step s = .next s) ∧
  (∀ (s : State) (b : InBuf) (rest : List Event), s.pending = .driveIn b :: rest →
    step s = .next { s with inp := b, pending := rest }) ∧
  (∀ (s : State) (rest : List Event), s.pending = .reset :: rest →
    step s = .next { State.reset with inp := s.inp, pending := rest }) ∧
  (∀ (s : State) (cmd value : Word) (r : Reject) (rest : List Event), s.pending = .present (.command cmd value) :: rest →
    decode (.command cmd value) = .error r → step s = .next { s with status := 7, pending := rest }) ∧
  (∀ (s : State) (bs : List Byte) (rest : List Event), s.pending = .present (.frame bs) :: rest →
    decode (.frame bs) = .error .badHeader →
    ∃ t, step s = .next t ∧ t = { s with inp := t.inp, pending := rest } ∧ t.inp.toList = bs) ∧
  (∀ (s : State) (bs : List Byte) (r : Reject) (rest : List Event), s.pending = .present (.frame bs) :: rest →
    decode (.frame bs) = .error r → r ≠ .badHeader →
    (r = .notAFrameLength ∨ r = .notAReadCommandByte ∨ r = .notAWriteCommandByte) ∧
      step s = .next { s with pending := rest })

/-- Decoding the code of a well-formed instruction gives it back, for every row and every operand.  Which row the bytes shared by the two read requests are is the model's choice (notes/assumptions/6), and `wf` leaves the other one out. -/
def Obligations.DecodeOfEncodeIsTheInstruction : Prop := ∀ i : Instr, i.wf = true → decode (encode i) = .ok i

/-- What the decoder answers is well formed, and the bytes of a decoded frame are the encoding of what it decodes to: no two frames decode to one instruction. -/
def Obligations.DecodeAnswersWellFormedInstructions : Prop :=
  (∀ (c : Code) (i : Instr), decode c = .ok i → i.wf = true) ∧
  (∀ (bs : List Byte) (i : Instr), decode (.frame bs) = .ok i → encode i = .frame bs)

/-- Words written out from R70 and R74 and frames written out from R76 to R79 decode to what they stand for, one a family.  That the 2-byte frame is the telemetry request's row is the model's choice (notes/assumptions/6). -/
def Obligations.WrittenOutWordsDecode : Prop :=
  decode (.command 0x00001A32 0) = .ok (.encRreq 3 0x1A) ∧
  decode (.command 0xFF010005 0) = .ok (.cksum 0xFF 1) ∧
  decode (.command 0x00000008 0) = .ok .unpkBeS ∧
  decode (.command 0x0000003B 0) = .ok (.parse 3) ∧
  decode (.command 0x0000192C 0) = .ok (.valRb 2 0x19) ∧
  decode (.command 0x0000000E 0) = .ok .reservedE ∧
  decode (.frame [0x5F, 0xAA]) = .ok (.wireTelemetryRequest 15) ∧
  decode (.frame [0xA7, 0x12, 0x78, 0x56, 0x34, 0x44]) = .ok (.wireRegisterWrite 7 0x12 0x78 0x56 0x34 0x44)

/-- 30_encoding.md section 5, derived there: ENC_TREQ a writes what ENC_RREQ a, 0xAA writes, and the two frames are the same bytes.
That the shared bytes decode to the telemetry request is the model's choice (DESIGN CHOICE, notes/assumptions/6): the spec names no row for them. -/
def Obligations.TelemetryRequestIsReadRequestForFullPacket : Prop :=
  ∀ (s : State) (a : Addr), exec (.encTreq a) s = exec (.encRreq a 0xAA#8) s ∧
    encode (.wireTelemetryRequest a) = encode (.wireRegisterReadRequest a 0xAA#8) ∧
    decode (encode (.wireRegisterReadRequest a 0xAA#8)) = .ok (.wireTelemetryRequest a)

/-- The encoders leave exactly the wire frames of 30_encoding.md section 3 in OUT[0 .. OUT_LEN-1]. -/
def Obligations.EncodersProduceTheWireFrames : Prop :=
  ∀ (s : State) (a : Addr) (r : Byte) (value : Word), ∃ t u v,
    exec (.encTreq a) s = .next t ∧ encode (.wireTelemetryRequest a) = .frame (t.out.toList.take t.outLen.toNat) ∧
    exec (.encRreq a r) s = .next u ∧ encode (.wireRegisterReadRequest a r) = .frame (u.out.toList.take u.outLen.toNat) ∧
    exec (.encWr a r value) s = .next v ∧
    encode (.wireRegisterWrite a r v.out[2] v.out[3] v.out[4] v.ck) = .frame (v.out.toList.take v.outLen.toNat)

/-- A frame to the device leaves the block as it is (30_encoding.md section 3, R84's "never decodes a command byte").  That this is the row's whole effect is the model's reading, notes/assumptions/3. -/
def Obligations.FramesToTheDeviceChangeNothing : Prop :=
  ∀ (s : State) (a : Addr) (r lo mid hi c : Byte),
    exec (.wireTelemetryRequest a) s = .next s ∧ exec (.wireRegisterReadRequest a r) s = .next s ∧
    exec (.wireRegisterWrite a r lo mid hi c) s = .next s

/-- A frame from the device stands at IN[0] onward, the other bytes of IN and every result register as before (20_memory.md section 1, 30_encoding.md section 1).  That this is the row's whole effect is the model's reading, notes/assumptions/3. -/
def Obligations.FramesFromTheDeviceStandAtIn : Prop :=
  (∀ (s : State) (b : InBuf), exec (.wireResponseFrame b) s = .next { s with inp := b }) ∧
  (∀ (s : State) (lo mid hi c : Byte), ∃ t, exec (.wireRegisterReadResponse lo mid hi c) s = .next t ∧
    t = { s with inp := t.inp } ∧ t.inp[0] = lo ∧ t.inp[1] = mid ∧ t.inp[2] = hi ∧ t.inp[3] = c ∧
    ∀ j : Fin 35, 4 ≤ j.val → t.inp[j] = s.inp[j])

/-- A correct read response on the link, then VAL_RB for the address and id it answers, gives its value unsigned (30_encoding.md section 3, 45_readback.md).
That the frame moves into IN as it passes on the link is the model's reading (DEDUCED, notes/assumptions/3), and the queue is the model's choice (notes/assumptions/1). -/
def Obligations.ArrivingReadResponseValidates : Prop :=
  ∀ (s : State) (a : Addr) (r : Byte) (v : Word24) (rest : List Event),
    s.pending = .present (.frame (readResponse hw a r v)) :: .present (encode (.valRb a r)) :: rest →
    ∃ t u, step s = .next t ∧ step t = .next u ∧ u.status = 1 ∧ u.ckOk = true ∧ u.rval = v.setWidth 32 ∧ u.pending = rest
end

