-- ==== Sys2Proof/Laws/Operands.lean ====
section
/-! SUPPORT. What the byte arithmetic computes: reading the buffers, the checksum as a sum, the assemblers and byteOf bit by bit, the command byte. -/

namespace Sys2Proof.Machine

/-! ## Lengths (R7) -/

@[simp] theorem hw_respLen : hw.respLen = 35 := rfl
@[simp] theorem hw_nFields : hw.nFields = 11 := rfl
@[simp] theorem hw_writeLen : hw.writeLen = 6 := rfl
@[simp] theorem hw_rreqLen : hw.rreqLen = 2 := rfl
@[simp] theorem hw_rrespLen : hw.rrespLen = 4 := rfl

/-- The lengths of this hardware agree with its frames and ports. -/
theorem hw_fits : hw.fits := by decide

/-! ## Buffers -/

@[simp] theorem getElem_inOfList (bs : List Byte) (k : Nat) (h : k < 35) : (inOfList bs)[k] = bs.getD k 0 := by
  simp [inOfList]

@[simp] theorem getElem_placeAt (bs : List Byte) (b : InBuf) (k : Nat) (h : k < 35) :
    (placeAt bs b)[k] = bs.getD k b[k] := by
  simp [placeAt]

@[simp] theorem getElem_padOut (bs : List Byte) (k : Nat) (h : k < 6) : (padOut bs)[k] = bs.getD k 0 := by
  simp [padOut]

theorem inOfList_toList (b : InBuf) : inOfList b.toList = b := by
  ext k hk
  simp [List.getD_eq_getElem?_getD, hk]

theorem placeAt_toList (b b' : InBuf) : placeAt b.toList b' = b := by
  ext k hk
  simp [List.getD_eq_getElem?_getD, hk]

/-- A frame of the port's length replaces the whole port. -/
theorem toList_placeAt {bs : List Byte} (b : InBuf) (h : bs.length = 35) : (placeAt bs b).toList = bs := by
  have hb : inOfList bs = placeAt bs b := by
    ext k hk
    simp [List.getD_eq_getElem?_getD, h, hk]
  rw [← hb]
  apply List.ext_getElem
  · simp [h]
  · intro k hk hk'
    simp [List.getD_eq_getElem?_getD, hk']

/-- The trailing byte of a frame of `n + 1` bytes is port byte `n`. -/
@[simp] theorem trailingByte_succ (n : Nat) (h : n < 35) (b : InBuf) : trailingByte (n + 1) b = b[n] := by
  simp [trailingByte, List.getD_eq_getElem?_getD, h]

@[simp] theorem trailingByte_response (b : InBuf) : trailingByte 35 b = b[34] := trailingByte_succ 34 (by decide) b

@[simp] theorem trailingByte_readback (b : InBuf) : trailingByte 4 b = b[3] := trailingByte_succ 3 (by decide) b

/-! ## Checksum -/

/-- The accumulator of R14 is the seed plus the sum of the bytes. -/
theorem foldl_add_eq_sum (b : List Byte) (seed : Byte) : b.foldl (· + ·) seed = seed + b.sum := by
  induction b generalizing seed with
  | nil => simp
  | cons x xs ih => simp [ih, BitVec.add_assoc]

theorem cksum_eq_sum (cfg : Config) (seed : Byte) (b : List Byte) :
    cksum cfg seed b = (seed + b.sum) ^^^ cfg.invert := by
  rw [cksum, foldl_add_eq_sum]

/-- Two checksums under one mask agree exactly when their sums do. -/
theorem cksum_inj (cfg : Config) (s s' : Byte) (b b' : List Byte) :
    cksum cfg s b = cksum cfg s' b' ↔ s + b.sum = s' + b'.sum := by
  simp [cksum_eq_sum, BitVec.xor_left_inj]

@[simp] theorem cksum_nil (cfg : Config) (seed : Byte) : cksum cfg seed [] = seed ^^^ cfg.invert := rfl

/-- The inversion is the complement: a sum and its checksum add up to 0xFF (R105). -/
theorem add_xor_ff (x : Byte) : x + (x ^^^ 0xFF#8) = 0xFF#8 := by
  revert x; decide

/-! ## Assemblers -/

theorem be24_eq_le24 (h m l : Byte) : be24 h m l = le24 l m h := rfl

@[simp] theorem byteOf_le24_zero (lo mid hi : Byte) : byteOf (le24 lo mid hi) 0 = lo := by
  ext i hi'
  simp [byteOf, le24]
  grind

@[simp] theorem byteOf_le24_one (lo mid hi : Byte) : byteOf (le24 lo mid hi) 1 = mid := by
  ext i hi'
  simp [byteOf, le24]
  grind

@[simp] theorem byteOf_le24_two (lo mid hi : Byte) : byteOf (le24 lo mid hi) 2 = hi := by
  ext i hi'
  simp [byteOf, le24]
  grind

/-- `LE24(LEbytes(v)) = v` for every 24-bit value (R15). -/
@[simp] theorem le24_byteOf (v : Word24) : le24 (byteOf v 0) (byteOf v 1) (byteOf v 2) = v := by
  ext i hi'
  simp [byteOf, le24]
  grind

@[simp] theorem be24_byteOf (v : Word24) : be24 (byteOf v 2) (byteOf v 1) (byteOf v 0) = v := by
  rw [be24_eq_le24, le24_byteOf]

/-- The append of R12 is the shift and OR of R15. -/
theorem le24_eq_shift_or (lo mid hi : Byte) :
    le24 lo mid hi = (hi.setWidth 24 <<< 16) ||| (mid.setWidth 24 <<< 8) ||| lo.setWidth 24 := by
  ext i hi'
  simp [le24]
  grind

theorem zext32_inj (v w : Word24) (h : zext32 v = zext32 w) : v = w := by
  have := congrArg (BitVec.setWidth 24) h
  simpa [zext32] using this

/-! ## The command byte -/

theorem read_cmdByte_nibbles (a : Addr) :
    cmdByte hw.readOpcode a &&& 0xF0#8 = hw.readOpcode ∧ (cmdByte hw.readOpcode a).extractLsb' 0 4 = a := by
  revert a; decide

theorem write_cmdByte_nibbles (a : Addr) :
    cmdByte hw.writeOpcode a &&& 0xF0#8 = hw.writeOpcode ∧ (cmdByte hw.writeOpcode a).extractLsb' 0 4 = a := by
  revert a; decide

/-- The checksum of a response frame covers bytes 0..33 (R122). -/
theorem responseCk_hw (a : Addr) (b : InBuf) :
    responseCk hw a b = cksum hw (responseSeed hw a) (b.toList.take 34) := rfl

/-- `0x50 | addr` is `0x50 + addr` for a 4-bit address (R181, C6). -/
theorem responseSeed_eq_add (a : Addr) : responseSeed hw a = 0x50#8 + a.setWidth 8 := by
  revert a; decide

theorem responseSeed_inj (a b : Addr) (h : responseSeed hw a = responseSeed hw b) : a = b := by
  rw [responseSeed_eq_add, responseSeed_eq_add] at h
  bv_omega

end Sys2Proof.Machine
end

