-- ==== Sys2Proof/Laws/Encoding.lean ====
section
/-! SUPPORT. The fields of an assembled CMD word, what the decoder answers once the op code is known, and the shape of what it reads from frame bytes. -/

namespace Sys2Proof

open Machine

variable (op : BitVec 4) (addr : Addr) (reg : Byte) (len : Len) (seed : Byte)

/-! ## The fields of an assembled word -/

@[simp] theorem cmdOp_cmdWord : cmdOp (cmdWord op addr reg len seed) = op := by
  unfold cmdOp cmdWord
  ext i hi
  grind

@[simp] theorem cmdAddr_cmdWord : cmdAddr (cmdWord op addr reg len seed) = addr := by
  unfold cmdAddr cmdWord
  ext i hi
  grind

@[simp] theorem cmdReg_cmdWord : cmdReg (cmdWord op addr reg len seed) = reg := by
  unfold cmdReg cmdWord
  ext i hi
  grind

@[simp] theorem cmdLen_cmdWord : cmdLen (cmdWord op addr reg len seed) = len := by
  unfold cmdLen cmdWord
  ext i hi
  grind

@[simp] theorem cmdRsv_cmdWord : cmdRsv (cmdWord op addr reg len seed) = 0#2 := by
  unfold cmdRsv cmdWord
  ext i hi
  grind

@[simp] theorem cmdSeed_cmdWord : cmdSeed (cmdWord op addr reg len seed) = seed := by
  unfold cmdSeed cmdWord
  ext i hi
  grind

/-! ## What the decoder answers -/

/-- A command whose op code is not reserved and whose `rsv` is not 0 is rejected for it. -/
theorem decodeCommand_reservedBits {cmd : Word} (value : Word) (hr : cmdRsv cmd ≠ 0#2)
    (h0 : cmdOp cmd ≠ 0x0#4) (hD : cmdOp cmd ≠ 0xD#4) (hE : cmdOp cmd ≠ 0xE#4) (hF : cmdOp cmd ≠ 0xF#4) :
    decodeCommand cmd value = .error .reservedBits := by
  unfold decodeCommand
  split <;> simp_all

/-- What a command decodes to: the sixteen op codes of R74, one case each. -/
theorem decodeCommand_cases (cmd value : Word) :
    (cmdOp cmd = 0x0#4 ∧ decodeCommand cmd value = .ok .reserved0) ∨
    (cmdOp cmd = 0xD#4 ∧ decodeCommand cmd value = .ok .reservedD) ∨
    (cmdOp cmd = 0xE#4 ∧ decodeCommand cmd value = .ok .reservedE) ∨
    (cmdOp cmd = 0xF#4 ∧ decodeCommand cmd value = .ok .reservedF) ∨
    (cmdRsv cmd ≠ 0#2 ∧ decodeCommand cmd value = .error .reservedBits) ∨
    (cmdRsv cmd = 0#2 ∧
      ((cmdOp cmd = 0x1#4 ∧ decodeCommand cmd value = .ok (.encTreq (cmdAddr cmd))) ∨
       (cmdOp cmd = 0x2#4 ∧ decodeCommand cmd value = .ok (.encRreq (cmdAddr cmd) (cmdReg cmd))) ∨
       (cmdOp cmd = 0x3#4 ∧ decodeCommand cmd value = .ok (.encWr (cmdAddr cmd) (cmdReg cmd) value)) ∨
       (cmdOp cmd = 0x4#4 ∧ decodeCommand cmd value = .ok (.packLe value)) ∨
       (cmdOp cmd = 0x5#4 ∧ 35 < (cmdLen cmd).toNat ∧ decodeCommand cmd value = .error .lenOutOfRange) ∨
       (cmdOp cmd = 0x5#4 ∧ (cmdLen cmd).toNat ≤ 35 ∧ decodeCommand cmd value = .ok (.cksum (cmdSeed cmd) (cmdLen cmd))) ∨
       (cmdOp cmd = 0x6#4 ∧ decodeCommand cmd value = .ok (.valCk (cmdAddr cmd))) ∨
       (cmdOp cmd = 0x7#4 ∧ decodeCommand cmd value = .ok .unpkBeU) ∨
       (cmdOp cmd = 0x8#4 ∧ decodeCommand cmd value = .ok .unpkBeS) ∨
       (cmdOp cmd = 0x9#4 ∧ decodeCommand cmd value = .ok .unpkLeU) ∨
       (cmdOp cmd = 0xA#4 ∧ decodeCommand cmd value = .ok .decResp) ∨
       (cmdOp cmd = 0xB#4 ∧ decodeCommand cmd value = .ok (.parse (cmdAddr cmd))) ∨
       (cmdOp cmd = 0xC#4 ∧ decodeCommand cmd value = .ok (.valRb (cmdAddr cmd) (cmdReg cmd))))) := by
  have all : ∀ x : BitVec 4, x = 0x0#4 ∨ x = 0x1#4 ∨ x = 0x2#4 ∨ x = 0x3#4 ∨ x = 0x4#4 ∨ x = 0x5#4 ∨ x = 0x6#4 ∨ x = 0x7#4 ∨
      x = 0x8#4 ∨ x = 0x9#4 ∨ x = 0xA#4 ∨ x = 0xB#4 ∨ x = 0xC#4 ∨ x = 0xD#4 ∨ x = 0xE#4 ∨ x = 0xF#4 := by decide
  by_cases hr : cmdRsv cmd = 0#2
  · by_cases hl : (cmdLen cmd).toNat ≤ 35
    · have hl' : ¬ 35 < (cmdLen cmd).toNat := by omega
      rcases all (cmdOp cmd) with h | h | h | h | h | h | h | h | h | h | h | h | h | h | h | h <;>
        simp [decodeCommand, h, hr, hl, hl']
    · have hl' : 35 < (cmdLen cmd).toNat := by omega
      rcases all (cmdOp cmd) with h | h | h | h | h | h | h | h | h | h | h | h | h | h | h | h <;>
        simp [decodeCommand, h, hr, hl, hl']
  · rcases all (cmdOp cmd) with h | h | h | h | h | h | h | h | h | h | h | h | h | h | h | h <;>
      simp [decodeCommand, h, hr]

/-- What the bytes of a frame decode to, by their length (R83). -/
theorem decodeFrame_ok {bs : List Byte} {i : Instr} (h : decodeFrame bs = .ok i) :
    (∃ b0, opcodeNibble b0 = hw.readOpcode ∧ bs = [b0, hw.fullPacket] ∧ i = .wireTelemetryRequest (nibbleAddr b0)) ∨
    (∃ b0 b1, opcodeNibble b0 = hw.readOpcode ∧ b1 ≠ hw.fullPacket ∧ bs = [b0, b1] ∧
      i = .wireRegisterReadRequest (nibbleAddr b0) b1) ∨
    (∃ b0 b1 b2 b3, bs = [b0, b1, b2, b3] ∧ i = .wireRegisterReadResponse b0 b1 b2 b3) ∨
    (∃ b0 b1 b2 b3 b4 b5, opcodeNibble b0 = hw.writeOpcode ∧ bs = [b0, b1, b2, b3, b4, b5] ∧
      i = .wireRegisterWrite (nibbleAddr b0) b1 b2 b3 b4 b5) ∨
    (bs.length = 35 ∧ bs.head? = some hw.header ∧ i = .wireResponseFrame (inOfList bs)) := by
  unfold decodeFrame at h
  by_cases h2 : bs.length = hw.rreqLen
  · obtain ⟨b0, b1, rfl⟩ := List.length_eq_two.mp h2
    by_cases hn : opcodeNibble b0 = hw.readOpcode
    · by_cases hf : b1 = hw.fullPacket
      · exact .inl ⟨b0, hn, by rw [hf], by simpa [hn, hf] using h.symm⟩
      · exact .inr (.inl ⟨b0, b1, hn, hf, rfl, by simpa [hn, hf] using h.symm⟩)
    · simp [hn] at h
  by_cases h4 : bs.length = hw.rrespLen
  · match bs, h4 with
    | [b0, b1, b2, b3], _ => exact .inr (.inr (.inl ⟨b0, b1, b2, b3, rfl, by simpa using h.symm⟩))
  by_cases h6 : bs.length = hw.writeLen
  · match bs, h6 with
    | [b0, b1, b2, b3, b4, b5], _ =>
      by_cases hn : opcodeNibble b0 = hw.writeOpcode
      · exact .inr (.inr (.inr (.inl ⟨b0, b1, b2, b3, b4, b5, hn, rfl, by simpa [hn] using h.symm⟩)))
      · simp [hn] at h
  by_cases h35 : bs.length = hw.respLen
  · rw [if_neg h2, if_neg h4, if_neg h6, if_pos h35] at h
    by_cases hh : frameByte bs 0 = hw.header
    · rw [if_neg (not_not_intro hh)] at h
      refine .inr (.inr (.inr (.inr ⟨h35, ?_, (Except.ok.inj h).symm⟩)))
      cases bs with
      | nil => simp at h35
      | cons b0 _ => exact congrArg some hh
    · rw [if_pos hh] at h
      cases h
  · rw [if_neg h2, if_neg h4, if_neg h6, if_neg h35] at h
    cases h

/-- A command byte is rebuilt from its two nibbles (R80). -/
theorem cmdByte_nibbles (b : Byte) : cmdByte (opcodeNibble b) (nibbleAddr b) = b := by
  revert b; decide

/-- A frame of response length reads back as its own bytes when its header is right. -/
theorem decodeFrame_response (b : InBuf) (h : b[0] = hw.header) :
    decodeFrame b.toList = .ok (.wireResponseFrame b) := by
  have h0 : frameByte b.toList 0 = hw.header := by
    rw [← h]; simp [List.getD_eq_getElem?_getD]
  rw [decodeFrame, h0]
  simp [inOfList_toList]

/-- A frame rejected for its header has the length of a response frame. -/
theorem decodeFrame_badHeader {bs : List Byte} (h : decodeFrame bs = .error .badHeader) : bs.length = 35 := by
  unfold decodeFrame at h
  repeat' split at h
  all_goals first
    | cases h; done
    | assumption

/-- Whatever a frame is rejected for, it is not rejected as a command. -/
theorem decodeFrame_error {bs : List Byte} {r : Reject} (h : decodeFrame bs = .error r) :
    r = .badHeader ∨ r = .notAFrameLength ∨ r = .notAReadCommandByte ∨ r = .notAWriteCommandByte := by
  unfold decodeFrame at h
  repeat' split at h
  all_goals cases h <;> simp

end Sys2Proof
end

