-- ==== Sys2Proof/Laws/State.lean ====
section
/-! SUPPORT. One lemma per field of State per update, each true by rfl, so that no later proof unfolds an update; and the two error-free endings over them. -/

namespace Sys2Proof.Machine

@[simp] theorem State.putStatus_out (c : StatusCode) (s : State) : (s.putStatus c).out = s.out := rfl
@[simp] theorem State.putStatus_outLen (c : StatusCode) (s : State) : (s.putStatus c).outLen = s.outLen := rfl
@[simp] theorem State.putStatus_field (c : StatusCode) (s : State) : (s.putStatus c).field = s.field := rfl
@[simp] theorem State.putStatus_rval (c : StatusCode) (s : State) : (s.putStatus c).rval = s.rval := rfl
@[simp] theorem State.putStatus_ck (c : StatusCode) (s : State) : (s.putStatus c).ck = s.ck := rfl
@[simp] theorem State.putStatus_ckOk (c : StatusCode) (s : State) : (s.putStatus c).ckOk = s.ckOk := rfl
@[simp] theorem State.putStatus_status (c : StatusCode) (s : State) : (s.putStatus c).status = c := rfl
@[simp] theorem State.putStatus_inp (c : StatusCode) (s : State) : (s.putStatus c).inp = s.inp := rfl
@[simp] theorem State.putStatus_pending (c : StatusCode) (s : State) : (s.putStatus c).pending = s.pending := rfl

@[simp] theorem State.putOut_out (n : Nat) (f : List Byte) (s : State) : (s.putOut n f).out = padOut (f.take n) := rfl
@[simp] theorem State.putOut_outLen (n : Nat) (f : List Byte) (s : State) : (s.putOut n f).outLen = BitVec.ofNat 3 n := rfl
@[simp] theorem State.putOut_field (n : Nat) (f : List Byte) (s : State) : (s.putOut n f).field = s.field := rfl
@[simp] theorem State.putOut_rval (n : Nat) (f : List Byte) (s : State) : (s.putOut n f).rval = s.rval := rfl
@[simp] theorem State.putOut_ck (n : Nat) (f : List Byte) (s : State) : (s.putOut n f).ck = s.ck := rfl
@[simp] theorem State.putOut_ckOk (n : Nat) (f : List Byte) (s : State) : (s.putOut n f).ckOk = s.ckOk := rfl
@[simp] theorem State.putOut_status (n : Nat) (f : List Byte) (s : State) : (s.putOut n f).status = s.status := rfl
@[simp] theorem State.putOut_inp (n : Nat) (f : List Byte) (s : State) : (s.putOut n f).inp = s.inp := rfl
@[simp] theorem State.putOut_pending (n : Nat) (f : List Byte) (s : State) : (s.putOut n f).pending = s.pending := rfl

@[simp] theorem State.putCk_out (c : Byte) (s : State) : (s.putCk c).out = s.out := rfl
@[simp] theorem State.putCk_outLen (c : Byte) (s : State) : (s.putCk c).outLen = s.outLen := rfl
@[simp] theorem State.putCk_field (c : Byte) (s : State) : (s.putCk c).field = s.field := rfl
@[simp] theorem State.putCk_rval (c : Byte) (s : State) : (s.putCk c).rval = s.rval := rfl
@[simp] theorem State.putCk_ck (c : Byte) (s : State) : (s.putCk c).ck = c := rfl
@[simp] theorem State.putCk_ckOk (c : Byte) (s : State) : (s.putCk c).ckOk = s.ckOk := rfl
@[simp] theorem State.putCk_status (c : Byte) (s : State) : (s.putCk c).status = s.status := rfl
@[simp] theorem State.putCk_inp (c : Byte) (s : State) : (s.putCk c).inp = s.inp := rfl
@[simp] theorem State.putCk_pending (c : Byte) (s : State) : (s.putCk c).pending = s.pending := rfl

@[simp] theorem State.putCheck_out (c r : Byte) (s : State) : (s.putCheck c r).out = s.out := rfl
@[simp] theorem State.putCheck_outLen (c r : Byte) (s : State) : (s.putCheck c r).outLen = s.outLen := rfl
@[simp] theorem State.putCheck_field (c r : Byte) (s : State) : (s.putCheck c r).field = s.field := rfl
@[simp] theorem State.putCheck_rval (c r : Byte) (s : State) : (s.putCheck c r).rval = s.rval := rfl
@[simp] theorem State.putCheck_ck (c r : Byte) (s : State) : (s.putCheck c r).ck = c := rfl
@[simp] theorem State.putCheck_ckOk (c r : Byte) (s : State) : (s.putCheck c r).ckOk = checkOk c r := rfl
@[simp] theorem State.putCheck_status (c r : Byte) (s : State) : (s.putCheck c r).status = s.status := rfl
@[simp] theorem State.putCheck_inp (c r : Byte) (s : State) : (s.putCheck c r).inp = s.inp := rfl
@[simp] theorem State.putCheck_pending (c r : Byte) (s : State) : (s.putCheck c r).pending = s.pending := rfl

@[simp] theorem State.putRval_out (v : Word) (s : State) : (s.putRval v).out = s.out := rfl
@[simp] theorem State.putRval_outLen (v : Word) (s : State) : (s.putRval v).outLen = s.outLen := rfl
@[simp] theorem State.putRval_field (v : Word) (s : State) : (s.putRval v).field = s.field := rfl
@[simp] theorem State.putRval_rval (v : Word) (s : State) : (s.putRval v).rval = v := rfl
@[simp] theorem State.putRval_ck (v : Word) (s : State) : (s.putRval v).ck = s.ck := rfl
@[simp] theorem State.putRval_ckOk (v : Word) (s : State) : (s.putRval v).ckOk = s.ckOk := rfl
@[simp] theorem State.putRval_status (v : Word) (s : State) : (s.putRval v).status = s.status := rfl
@[simp] theorem State.putRval_inp (v : Word) (s : State) : (s.putRval v).inp = s.inp := rfl
@[simp] theorem State.putRval_pending (v : Word) (s : State) : (s.putRval v).pending = s.pending := rfl

@[simp] theorem State.putFields_out (f : FieldFile) (s : State) : (s.putFields f).out = s.out := rfl
@[simp] theorem State.putFields_outLen (f : FieldFile) (s : State) : (s.putFields f).outLen = s.outLen := rfl
@[simp] theorem State.putFields_field (f : FieldFile) (s : State) : (s.putFields f).field = f := rfl
@[simp] theorem State.putFields_rval (f : FieldFile) (s : State) : (s.putFields f).rval = s.rval := rfl
@[simp] theorem State.putFields_ck (f : FieldFile) (s : State) : (s.putFields f).ck = s.ck := rfl
@[simp] theorem State.putFields_ckOk (f : FieldFile) (s : State) : (s.putFields f).ckOk = s.ckOk := rfl
@[simp] theorem State.putFields_status (f : FieldFile) (s : State) : (s.putFields f).status = s.status := rfl
@[simp] theorem State.putFields_inp (f : FieldFile) (s : State) : (s.putFields f).inp = s.inp := rfl
@[simp] theorem State.putFields_pending (f : FieldFile) (s : State) : (s.putFields f).pending = s.pending := rfl

@[simp] theorem State.putInp_out (b : InBuf) (s : State) : (s.putInp b).out = s.out := rfl
@[simp] theorem State.putInp_outLen (b : InBuf) (s : State) : (s.putInp b).outLen = s.outLen := rfl
@[simp] theorem State.putInp_field (b : InBuf) (s : State) : (s.putInp b).field = s.field := rfl
@[simp] theorem State.putInp_rval (b : InBuf) (s : State) : (s.putInp b).rval = s.rval := rfl
@[simp] theorem State.putInp_ck (b : InBuf) (s : State) : (s.putInp b).ck = s.ck := rfl
@[simp] theorem State.putInp_ckOk (b : InBuf) (s : State) : (s.putInp b).ckOk = s.ckOk := rfl
@[simp] theorem State.putInp_status (b : InBuf) (s : State) : (s.putInp b).status = s.status := rfl
@[simp] theorem State.putInp_inp (b : InBuf) (s : State) : (s.putInp b).inp = b := rfl
@[simp] theorem State.putInp_pending (b : InBuf) (s : State) : (s.putInp b).pending = s.pending := rfl

@[simp] theorem State.putPending_out (p : List Event) (s : State) : (s.putPending p).out = s.out := rfl
@[simp] theorem State.putPending_outLen (p : List Event) (s : State) : (s.putPending p).outLen = s.outLen := rfl
@[simp] theorem State.putPending_field (p : List Event) (s : State) : (s.putPending p).field = s.field := rfl
@[simp] theorem State.putPending_rval (p : List Event) (s : State) : (s.putPending p).rval = s.rval := rfl
@[simp] theorem State.putPending_ck (p : List Event) (s : State) : (s.putPending p).ck = s.ck := rfl
@[simp] theorem State.putPending_ckOk (p : List Event) (s : State) : (s.putPending p).ckOk = s.ckOk := rfl
@[simp] theorem State.putPending_status (p : List Event) (s : State) : (s.putPending p).status = s.status := rfl
@[simp] theorem State.putPending_inp (p : List Event) (s : State) : (s.putPending p).inp = s.inp := rfl
@[simp] theorem State.putPending_pending (p : List Event) (s : State) : (s.putPending p).pending = p := rfl

@[simp] theorem State.endOk_eq (s : State) : s.endOk = s.putStatus stOk := rfl
@[simp] theorem State.illegal_eq (s : State) : s.illegal = s.putStatus stIllegal := rfl
@[simp] theorem State.endError_eq (c : StatusCode) (s : State) : s.endError c = s.putStatus c := rfl

@[simp] theorem resetBlock_out (s : State) : (resetBlock s).out = State.reset.out := rfl
@[simp] theorem resetBlock_outLen (s : State) : (resetBlock s).outLen = State.reset.outLen := rfl
@[simp] theorem resetBlock_field (s : State) : (resetBlock s).field = State.reset.field := rfl
@[simp] theorem resetBlock_rval (s : State) : (resetBlock s).rval = State.reset.rval := rfl
@[simp] theorem resetBlock_ck (s : State) : (resetBlock s).ck = State.reset.ck := rfl
@[simp] theorem resetBlock_ckOk (s : State) : (resetBlock s).ckOk = State.reset.ckOk := rfl
@[simp] theorem resetBlock_status (s : State) : (resetBlock s).status = State.reset.status := rfl
@[simp] theorem resetBlock_inp (s : State) : (resetBlock s).inp = s.inp := rfl
@[simp] theorem resetBlock_pending (s : State) : (resetBlock s).pending = s.pending := rfl

end Sys2Proof.Machine
end

