-- ==== Sys2Proof/Laws/Ops.lean ====
section
/-! SUPPORT. One lemma per shared operation that says everything it can do, in the cases of its rule; later proofs cite these and do not unfold the operation. -/

namespace Sys2Proof.Machine

variable (cfg : Config) (addr : Addr) (s : State)

/-- A frame of `n` bytes is written whole. -/
theorem putOut_eq (n : Nat) (frame : List Byte) (h : frame.length = n) :
    s.putOut n frame = { s with out := padOut frame, outLen := BitVec.ofNat 3 n } := by
  subst h
  simp [State.putOut]

theorem encodeFrame_eq (n : Nat) (frame : List Byte) : encodeFrame n frame s = (s.putOut n frame).putStatus stOk := rfl

theorem encodeWrite_eq (reg : Byte) (value : Word) :
    encodeWrite cfg addr reg value s =
      ((s.putOut cfg.writeLen (writeFrame cfg addr reg (value24 value))).putCk (writeCk cfg addr reg (value24 value))).putStatus stOk :=
  rfl

/-- CKSUM's two cases (R120). -/
theorem checksumOf_cases (seed : Byte) (len : Len) :
    (cfg.respLen < len.toNat ∧ checksumOf cfg seed len s = s.putStatus stIllegal) ∨
    (len.toNat ≤ cfg.respLen ∧
      checksumOf cfg seed len s = (s.putCk (cksum cfg seed (s.inp.toList.take len.toNat))).putStatus stOk) := by
  unfold checksumOf
  split <;> simp_all

theorem checkOk_iff (c r : Byte) : checkOk c r = true ↔ c = r := by simp [checkOk]

/-- VAL_CK's two cases (R122). -/
theorem validateResponse_cases :
    (responseCk cfg addr s.inp = trailingByte cfg.respLen s.inp ∧
      validateResponse cfg addr s = (s.putCheck (responseCk cfg addr s.inp) (trailingByte cfg.respLen s.inp)).putStatus stOk) ∨
    (responseCk cfg addr s.inp ≠ trailingByte cfg.respLen s.inp ∧
      validateResponse cfg addr s = (s.putCheck (responseCk cfg addr s.inp) (trailingByte cfg.respLen s.inp)).putStatus stBadChecksum) := by
  unfold validateResponse checkResponse
  simp only [State.putCheck_ckOk, checkOk_iff]
  split <;> simp_all

theorem unpack_eq (v : Word) : unpack v s = (s.putRval v).putStatus stOk := rfl

/-- DEC_RESP's two cases (R163, R164). -/
theorem decodeResponse_cases :
    (s.inp[0] = cfg.header ∧ decodeResponse cfg s = (s.putFields (decodeFields cfg s.inp s.field)).putStatus stOk) ∨
    (s.inp[0] ≠ cfg.header ∧ decodeResponse cfg s = s.putStatus stBadHeader) := by
  unfold decodeResponse headerOk
  split <;> simp_all

/-- PARSE's three cases, the checksum first (R165, R166). -/
theorem parseResponse_cases :
    (responseCk cfg addr s.inp ≠ trailingByte cfg.respLen s.inp ∧
      parseResponse cfg addr s = (s.putCheck (responseCk cfg addr s.inp) (trailingByte cfg.respLen s.inp)).putStatus stBadChecksum) ∨
    (responseCk cfg addr s.inp = trailingByte cfg.respLen s.inp ∧ s.inp[0] ≠ cfg.header ∧
      parseResponse cfg addr s = (s.putCheck (responseCk cfg addr s.inp) (trailingByte cfg.respLen s.inp)).putStatus stBadHeader) ∨
    (responseCk cfg addr s.inp = trailingByte cfg.respLen s.inp ∧ s.inp[0] = cfg.header ∧
      parseResponse cfg addr s =
        ((s.putCheck (responseCk cfg addr s.inp) (trailingByte cfg.respLen s.inp)).putFields (decodeFields cfg s.inp s.field)).putStatus stOk) := by
  unfold parseResponse checkResponse decodeResponse headerOk
  simp only [State.putCheck_ckOk, checkOk_iff, State.putCheck_inp]
  by_cases hc : responseCk cfg addr s.inp = trailingByte cfg.respLen s.inp <;> by_cases hh : s.inp[0] = cfg.header <;> simp [hc, hh]

/-- VAL_RB's two cases (R180). -/
theorem validateReadback_cases (reg : Byte) :
    (readbackCk cfg addr reg s.inp[0] s.inp[1] s.inp[2] = trailingByte cfg.rrespLen s.inp ∧
      validateReadback cfg addr reg s =
        ((s.putCheck (readbackCk cfg addr reg s.inp[0] s.inp[1] s.inp[2]) (trailingByte cfg.rrespLen s.inp)).putRval
          (zext32 (le24 s.inp[0] s.inp[1] s.inp[2]))).putStatus stOk) ∨
    (readbackCk cfg addr reg s.inp[0] s.inp[1] s.inp[2] ≠ trailingByte cfg.rrespLen s.inp ∧
      validateReadback cfg addr reg s =
        (s.putCheck (readbackCk cfg addr reg s.inp[0] s.inp[1] s.inp[2]) (trailingByte cfg.rrespLen s.inp)).putStatus stBadChecksum) := by
  unfold validateReadback
  simp only [State.putCheck_ckOk, checkOk_iff]
  split <;> simp_all

/-! ## The same on this hardware, in the indices of the rules -/

theorem checksumOf_hw (seed : Byte) (len : Len) :
    (35 < len.toNat ∧ checksumOf hw seed len s = s.putStatus stIllegal) ∨
    (len.toNat ≤ 35 ∧ checksumOf hw seed len s = (s.putCk (cksum hw seed (s.inp.toList.take len.toNat))).putStatus stOk) :=
  checksumOf_cases hw s seed len

theorem validateResponse_hw :
    (responseCk hw addr s.inp = s.inp[34] ∧
      validateResponse hw addr s = (s.putCheck (responseCk hw addr s.inp) s.inp[34]).putStatus stOk) ∨
    (responseCk hw addr s.inp ≠ s.inp[34] ∧
      validateResponse hw addr s = (s.putCheck (responseCk hw addr s.inp) s.inp[34]).putStatus stBadChecksum) := by
  simpa only [hw_respLen, trailingByte_response] using validateResponse_cases hw addr s

theorem parseResponse_hw :
    (responseCk hw addr s.inp ≠ s.inp[34] ∧
      parseResponse hw addr s = (s.putCheck (responseCk hw addr s.inp) s.inp[34]).putStatus stBadChecksum) ∨
    (responseCk hw addr s.inp = s.inp[34] ∧ s.inp[0] ≠ hw.header ∧
      parseResponse hw addr s = (s.putCheck (responseCk hw addr s.inp) s.inp[34]).putStatus stBadHeader) ∨
    (responseCk hw addr s.inp = s.inp[34] ∧ s.inp[0] = hw.header ∧
      parseResponse hw addr s =
        ((s.putCheck (responseCk hw addr s.inp) s.inp[34]).putFields (decodeFields hw s.inp s.field)).putStatus stOk) := by
  simpa only [hw_respLen, trailingByte_response] using parseResponse_cases hw addr s

theorem validateReadback_hw (reg : Byte) :
    (readbackCk hw addr reg s.inp[0] s.inp[1] s.inp[2] = s.inp[3] ∧
      validateReadback hw addr reg s =
        ((s.putCheck (readbackCk hw addr reg s.inp[0] s.inp[1] s.inp[2]) s.inp[3]).putRval
          (zext32 (le24 s.inp[0] s.inp[1] s.inp[2]))).putStatus stOk) ∨
    (readbackCk hw addr reg s.inp[0] s.inp[1] s.inp[2] ≠ s.inp[3] ∧
      validateReadback hw addr reg s =
        (s.putCheck (readbackCk hw addr reg s.inp[0] s.inp[1] s.inp[2]) s.inp[3]).putStatus stBadChecksum) := by
  simpa only [hw_rrespLen, trailingByte_readback] using validateReadback_cases hw addr s reg

/-! ## Events and fields -/

theorem receiveFrame_eq (bs : List Byte) : receiveFrame bs s = s.putInp (placeAt bs s.inp) := rfl

@[simp] theorem frameToDevice_eq : frameToDevice s = s := rfl

/-- What a rejected code does: an illegal command, a malformed response frame, or bytes that are no frame. -/
theorem rejected_cases (c : Code) (r : Reject) :
    rejected c r s = s.putStatus stIllegal ∨ (∃ bs, c = .frame bs ∧ rejected c r s = receiveFrame bs s) ∨
      rejected c r s = s := by
  cases c with
  | command cmd value => exact .inl rfl
  | frame bs => cases r <;> simp [rejected]

theorem getElem_decodeFields (b : InBuf) (old : FieldFile) (k : Nat) (h : k < 11) :
    (decodeFields cfg b old)[k] =
      if k < cfg.nFields then widen cfg.slots[k].signed (slot24 cfg b ⟨k, h⟩) else old[k] := by
  simp [decodeFields]

/-- On this hardware every field register is decoded. -/
@[simp] theorem getElem_decodeFields_hw (b : InBuf) (old : FieldFile) (k : Nat) (h : k < 11) :
    (decodeFields hw b old)[k] = widen hw.slots[k].signed (slot24 hw b ⟨k, h⟩) := by
  simp [getElem_decodeFields, h]

/-- So what the registers held before does not matter. -/
theorem decodeFields_hw_old (b : InBuf) (old old' : FieldFile) : decodeFields hw b old = decodeFields hw b old' := by
  ext1 k hk
  simp

end Sys2Proof.Machine
end

