-- ==== Sys2Proof/Laws/Exec.lean ====
section
/-! SUPPORT. What one instruction can do to the result registers, said once over all instructions (spec/10_state.md R31, R32), and what one step can do. -/

namespace Sys2Proof.Machine

/-- The updates an instruction can make, one constructor per shape of its "Written" line. -/
inductive Effect (s : State) : State → Prop
  | unchanged : Effect s s
  | illegal : Effect s (s.putStatus stIllegal)
  | badHeader : Effect s (s.putStatus stBadHeader)
  | request (n : Nat) (f : List Byte) (h : n = 2 ∨ n = 3) : Effect s ((s.putOut n f).putStatus stOk)
  | write (f : List Byte) (c : Byte) : Effect s (((s.putOut 6 f).putCk c).putStatus stOk)
  | sum (c : Byte) : Effect s ((s.putCk c).putStatus stOk)
  | passed (c : Byte) : Effect s ((s.putCheck c c).putStatus stOk)
  | failed (c r : Byte) (h : c ≠ r) : Effect s ((s.putCheck c r).putStatus stBadChecksum)
  | passedBadHeader (c : Byte) : Effect s ((s.putCheck c c).putStatus stBadHeader)
  | value (v : Word) (h : widened v) : Effect s ((s.putRval v).putStatus stOk)
  | fields (b : InBuf) : Effect s ((s.putFields (decodeFields hw b s.field)).putStatus stOk)
  | passedValue (c : Byte) (v : Word) (h : widened v) : Effect s (((s.putCheck c c).putRval v).putStatus stOk)
  | passedFields (c : Byte) (b : InBuf) : Effect s (((s.putCheck c c).putFields (decodeFields hw b s.field)).putStatus stOk)
  | input (b : InBuf) : Effect s (s.putInp b)

theorem widened_zext32 (v : Word24) : widened (zext32 v) := ⟨v, .inl rfl⟩

theorem widened_sext32 (v : Word24) : widened (sext32 v) := ⟨v, .inr rfl⟩

/-- Every instruction answers a next state, reached by one of these updates. -/
theorem exec_effect (i : Instr) (s : State) : ∃ t, exec i s = .next t ∧ Effect s t := by
  cases i with
  | encTreq addr => exact ⟨_, rfl, .request _ _ (.inl rfl)⟩
  | encRreq addr reg => exact ⟨_, rfl, .request _ _ (.inl rfl)⟩
  | encWr addr reg value => exact ⟨_, rfl, .write _ _⟩
  | packLe value => exact ⟨_, rfl, .request _ _ (.inr rfl)⟩
  | cksum seed len =>
    refine ⟨_, rfl, ?_⟩
    rcases checksumOf_hw s seed len with ⟨-, h⟩ | ⟨-, h⟩ <;> rw [h]
    · exact .illegal
    · exact .sum _
  | valCk addr =>
    refine ⟨_, rfl, ?_⟩
    rcases validateResponse_hw addr s with ⟨e, h⟩ | ⟨e, h⟩ <;> rw [h]
    · rw [e]; exact .passed _
    · exact .failed _ _ e
  | unpkBeU => exact ⟨_, rfl, .value _ (widened_zext32 _)⟩
  | unpkBeS => exact ⟨_, rfl, .value _ (widened_sext32 _)⟩
  | unpkLeU => exact ⟨_, rfl, .value _ (widened_zext32 _)⟩
  | decResp =>
    refine ⟨_, rfl, ?_⟩
    rcases decodeResponse_cases hw s with ⟨-, h⟩ | ⟨-, h⟩ <;> rw [h]
    · exact .fields _
    · exact .badHeader
  | parse addr =>
    refine ⟨_, rfl, ?_⟩
    rcases parseResponse_hw addr s with ⟨e, h⟩ | ⟨e, -, h⟩ | ⟨e, -, h⟩ <;> rw [h]
    · exact .failed _ _ e
    · rw [e]; exact .passedBadHeader _
    · rw [e]; exact .passedFields _ _
  | valRb addr reg =>
    refine ⟨_, rfl, ?_⟩
    rcases validateReadback_hw addr s reg with ⟨e, h⟩ | ⟨e, h⟩ <;> rw [h]
    · rw [e]; exact .passedValue _ _ (widened_zext32 _)
    · exact .failed _ _ e
  | reserved0 => exact ⟨_, rfl, .illegal⟩
  | reservedD => exact ⟨_, rfl, .illegal⟩
  | reservedE => exact ⟨_, rfl, .illegal⟩
  | reservedF => exact ⟨_, rfl, .illegal⟩
  | wireTelemetryRequest addr => exact ⟨_, rfl, .unchanged⟩
  | wireRegisterReadRequest addr reg => exact ⟨_, rfl, .unchanged⟩
  | wireRegisterWrite addr reg lo mid hi ck => exact ⟨_, rfl, .unchanged⟩
  | wireRegisterReadResponse lo mid hi ck => exact ⟨_, rfl, .input _⟩
  | wireResponseFrame b => exact ⟨_, rfl, .input _⟩

/-- What one step does, by the next pending event. -/
theorem step_cases (s : State) :
    (s.pending = [] ∧ step s = .next s) ∨
    (∃ rest, s.pending = .reset :: rest ∧ step s = .next (resetBlock (s.putPending rest))) ∨
    (∃ b rest, s.pending = .driveIn b :: rest ∧ step s = .next ((s.putPending rest).putInp b)) ∨
    (∃ c i rest, s.pending = .present c :: rest ∧ decode c = .ok i ∧ step s = exec i (s.putPending rest)) ∨
    (∃ c r rest, s.pending = .present c :: rest ∧ decode c = .error r ∧
      step s = .next (rejected c r (s.putPending rest))) := by
  unfold step
  split
  · exact .inl ⟨‹_›, rfl⟩
  · exact .inr (.inl ⟨_, ‹_›, rfl⟩)
  · exact .inr (.inr (.inl ⟨_, _, ‹_›, rfl⟩))
  · rename_i c rest h
    cases hd : decode c with
    | ok i => exact .inr (.inr (.inr (.inl ⟨c, i, rest, h, hd, rfl⟩)))
    | error r => exact .inr (.inr (.inr (.inr ⟨c, r, rest, h, hd, rfl⟩)))

/-- A step whose event is a table word runs what the decoder reads from it. -/
theorem step_withFetchWord (s : State) (nbits w : Nat) (i : Instr) (h : decodeTableWord nbits w = some i) :
    step (s.withFetchWord nbits w) = exec i s := by
  unfold decodeTableWord at h
  split at h
  · rename_i j hd
    cases h
    simp [step, State.withFetchWord, State.putPending, hd]
  · cases h

end Sys2Proof.Machine
end

