-- ==== Sys2Proof/Laws/PerInstr.lean ====
section
/-! SUPPORT. Per-instruction families: what every instruction's code looks like. -/

namespace Sys2Proof.Laws.CodeShape

open Sys2Proof

/-- The code of an instruction is a command with `rsv` 0 (R75), or a frame of one of the four fixed lengths (R83). -/
def Statement (i : Instr) : Prop :=
  match encode i with
  | .command cmd _ => cmdRsv cmd = 0#2
  | .frame bs => bs.length = 2 ∨ bs.length = 4 ∨ bs.length = 6 ∨ bs.length = 35

theorem encTreq (addr : Addr) : Statement (.encTreq addr) := cmdRsv_cmdWord _ _ _ _ _
theorem encRreq (addr : Addr) (reg : Byte) : Statement (.encRreq addr reg) := cmdRsv_cmdWord _ _ _ _ _
theorem encWr (addr : Addr) (reg : Byte) (value : Word) : Statement (.encWr addr reg value) := cmdRsv_cmdWord _ _ _ _ _
theorem packLe (value : Word) : Statement (.packLe value) := cmdRsv_cmdWord _ _ _ _ _
theorem cksum (seed : Byte) (len : Len) : Statement (.cksum seed len) := cmdRsv_cmdWord _ _ _ _ _
theorem valCk (addr : Addr) : Statement (.valCk addr) := cmdRsv_cmdWord _ _ _ _ _
theorem unpkBeU : Statement .unpkBeU := cmdRsv_cmdWord _ _ _ _ _
theorem unpkBeS : Statement .unpkBeS := cmdRsv_cmdWord _ _ _ _ _
theorem unpkLeU : Statement .unpkLeU := cmdRsv_cmdWord _ _ _ _ _
theorem decResp : Statement .decResp := cmdRsv_cmdWord _ _ _ _ _
theorem parse (addr : Addr) : Statement (.parse addr) := cmdRsv_cmdWord _ _ _ _ _
theorem valRb (addr : Addr) (reg : Byte) : Statement (.valRb addr reg) := cmdRsv_cmdWord _ _ _ _ _
theorem reserved0 : Statement .reserved0 := cmdRsv_cmdWord _ _ _ _ _
theorem reservedD : Statement .reservedD := cmdRsv_cmdWord _ _ _ _ _
theorem reservedE : Statement .reservedE := cmdRsv_cmdWord _ _ _ _ _
theorem reservedF : Statement .reservedF := cmdRsv_cmdWord _ _ _ _ _
theorem wireTelemetryRequest (addr : Addr) : Statement (.wireTelemetryRequest addr) := .inl rfl
theorem wireRegisterReadRequest (addr : Addr) (reg : Byte) : Statement (.wireRegisterReadRequest addr reg) := .inl rfl
theorem wireRegisterWrite (addr : Addr) (reg valLo valMid valHi ck : Byte) :
    Statement (.wireRegisterWrite addr reg valLo valMid valHi ck) := .inr (.inr (.inl rfl))
theorem wireRegisterReadResponse (valLo valMid valHi ck : Byte) :
    Statement (.wireRegisterReadResponse valLo valMid valHi ck) := .inr (.inl rfl)
theorem wireResponseFrame (bytes : InBuf) : Statement (.wireResponseFrame bytes) := .inr (.inr (.inr (by simp)))

end Sys2Proof.Laws.CodeShape
end

