-- ==== Sys2Proof/Machine/Asm.lean ====
section
/-! DEFINITION. The assembler lines of spec/30_encoding.md R85 (D21): what a command line and a `.in` line stand for. Notation for the user's side; no meaning of an instruction uses this file. -/

namespace Sys2Proof.Machine

/-- A number as an operand of `n` bits; none where it does not fit. -/
def fits (n v : Nat) : Option (BitVec n) := if v < 2 ^ n then some (BitVec.ofNat n v) else none

/-- The instruction of a command line: the mnemonic of R74 followed by its operands in the order of R85. -/
def assembleLine (mnemonic : String) (operands : List Nat) : Option Instr :=
  match mnemonic, operands with
  | "ENC_TREQ", [a] => (fits 4 a).map .encTreq
  | "ENC_RREQ", [a, r] => do return .encRreq (← fits 4 a) (← fits 8 r)
  | "ENC_WR", [a, r, v] => do return .encWr (← fits 4 a) (← fits 8 r) (← fits 32 v)
  | "PACK_LE", [v] => (fits 32 v).map .packLe
  | "CKSUM", [seed, len] => do return .cksum (← fits 8 seed) (← fits 6 len)
  | "VAL_CK", [a] => (fits 4 a).map .valCk
  | "UNPK_BE_U", [] => some .unpkBeU
  | "UNPK_BE_S", [] => some .unpkBeS
  | "UNPK_LE_U", [] => some .unpkLeU
  | "DEC_RESP", [] => some .decResp
  | "PARSE", [a] => (fits 4 a).map .parse
  | "VAL_RB", [a, r] => do return .valRb (← fits 4 a) (← fits 8 r)
  | _, _ => none

/-- What the user presents for a command line: `CMD`, and `VALUE` where the operation reads it. -/
def commandLine (mnemonic : String) (operands : List Nat) : Option Event :=
  (assembleLine mnemonic operands).map fun i => .present (encode i)

/-- What the user drives for a `.in` line: the listed bytes, the unlisted ones 0. -/
def inLine (bytes : List Byte) : Event := .driveIn (inOfList bytes)

end Sys2Proof.Machine
end

