-- ==== Sys2Proof/Tests/Slice0.lean ====
section
/-! SUPPORT. Tests against the vectors of spec/95_test_vectors.md (written V-… and L3-… below), the smoke test of WellFormed, the decoding of one written-out word for every row, and a witness for the hypotheses of every obligation that has some. -/

open Sys2Proof Sys2Proof.Machine Sys2Proof.Spec

namespace Sys2Proof.Tests

/-! ## Small helpers -/

/-- The state an outcome answers. -/
def stateOf (o : Host.Outcome State Fault Refusal) : Option State :=
  match o with
  | .next s => some s
  | .fault _ => none
  | .refused _ => none

/-- Reset with these bytes at IN, the others 0. -/
def withIn (bs : List Byte) : State := State.reset.putInp (inOfList bs)

/-- Header 0x55, 33 zero bytes, then a checksum byte (V-C4). -/
def zeroFrame (header ck : Byte) : List Byte := header :: (List.replicate 33 0 ++ [ck])

/-- Frame V-P1. -/
def frameP1 : List Byte :=
  [0x55, 0x12, 0x34, 0x56, 0x00, 0x0F, 0x42, 0x00, 0x03, 0xE8, 0xFF, 0xFF, 0xFF, 0x80, 0x00, 0x00, 0x00, 0x00] ++
  [0x01, 0x7F, 0xFF, 0xFF, 0xAB, 0xCD, 0xEF, 0x00, 0x00, 0x00, 0x7F, 0xFF, 0xFF, 0xFF, 0xFF, 0xFE, 0xA7]

/-! ## WellFormed refuses an ill-formed term for each of its checks -/

theorem test_wf_cksum_len_36 : (Instr.cksum 0 36).wf = false := by decide
theorem test_wf_read_request_full_packet : (Instr.wireRegisterReadRequest 0 0xAA).wf = false := by decide
theorem test_wf_response_header_54 : (Instr.wireResponseFrame (inOfList [0x54])).wf = false := by decide
theorem test_wf_cksum_len_35 : (Instr.cksum 0 35).wf = true := by decide

/-! ## Every row's decoding, the word written out from R70 and R74 (V- vectors) or the frame from R76 to R79 -/

theorem test_decode_encTreq : decode (.command 0x00000051 0) = .ok (.encTreq 5) := by rfl
theorem test_decode_encTreq_unread_fields : decode (.command 0xFF3FFF01 0) = .ok (.encTreq 0) := by rfl
theorem test_decode_encRreq : decode (.command 0x00001A32 0) = .ok (.encRreq 3 0x1A) := by rfl
theorem test_decode_encWr : decode (.command 0x00001273 0x12345678) = .ok (.encWr 7 0x12 0x12345678) := by rfl
theorem test_decode_packLe : decode (.command 0x00000004 0xFF123456) = .ok (.packLe 0xFF123456) := by rfl
theorem test_decode_cksum : decode (.command 0x50220005 0) = .ok (.cksum 0x50 34) := by rfl
theorem test_decode_cksum_len_36 : decode (.command 0x00240005 0) = .error .lenOutOfRange := by rfl
theorem test_decode_valCk : decode (.command 0x000000F6 0) = .ok (.valCk 15) := by rfl
theorem test_decode_unpkBeU : decode (.command 0x00000007 0) = .ok .unpkBeU := by rfl
theorem test_decode_unpkBeS : decode (.command 0x00000008 0) = .ok .unpkBeS := by rfl
theorem test_decode_unpkLeU : decode (.command 0x00000009 0) = .ok .unpkLeU := by rfl
theorem test_decode_decResp : decode (.command 0x0000000A 0) = .ok .decResp := by rfl
theorem test_decode_parse : decode (.command 0x0000002B 0) = .ok (.parse 2) := by rfl
theorem test_decode_valRb : decode (.command 0x0000181C 0) = .ok (.valRb 1 0x18) := by rfl
theorem test_decode_reserved0 : decode (.command 0x00000000 0) = .ok .reserved0 := by rfl
theorem test_decode_reservedD : decode (.command 0x0000000D 0) = .ok .reservedD := by rfl
theorem test_decode_reservedE : decode (.command 0x0000000E 0) = .ok .reservedE := by rfl
theorem test_decode_reservedF : decode (.command 0x0000000F 0) = .ok .reservedF := by rfl
theorem test_decode_rsv_1 : decode (.command 0x00400001 0) = .error .reservedBits := by rfl
theorem test_decode_rsv_2 : decode (.command 0x00800001 0) = .error .reservedBits := by rfl
theorem test_decode_telemetry_request : decode (.frame [0x52, 0xAA]) = .ok (.wireTelemetryRequest 2) := by rfl
theorem test_decode_read_request : decode (.frame [0x53, 0x1A]) = .ok (.wireRegisterReadRequest 3 0x1A) := by rfl
theorem test_decode_write : decode (.frame [0xA0, 0x19, 0x5A, 0x5A, 0x5A, 0x38]) =
    .ok (.wireRegisterWrite 0 0x19 0x5A 0x5A 0x5A 0x38) := by rfl
theorem test_decode_read_response : decode (.frame [0x00, 0x02, 0x00, 0x95]) =
    .ok (.wireRegisterReadResponse 0x00 0x02 0x00 0x95) := by rfl
theorem test_decode_response : decode (.frame frameP1) = .ok (.wireResponseFrame (inOfList frameP1)) := by rfl
theorem test_decode_bad_header : decode (.frame (zeroFrame 0x54 0x5B)) = .error .badHeader := by rfl
theorem test_decode_ten_bytes : decode (.frame (List.replicate 10 0)) = .error .notAFrameLength := by rfl
theorem test_table_word_telemetry : decodeTableWord 16 0x50AA = some (.wireTelemetryRequest 0) := by rfl
theorem test_table_word_reserved : decodeTableWord 32 0xD = some .reservedD := by rfl

/-! ## One step of each operation -/

/-- V-E2. -/
theorem test_encTreq : (stateOf (exec (.encTreq 5) State.reset)).map (fun t => (t.out, t.outLen, t.status)) =
    some (#v[0x55, 0xAA, 0, 0, 0, 0], 2, 1) := by decide
/-- V-E3a. -/
theorem test_encRreq : (stateOf (exec (.encRreq 3 0x1A) State.reset)).map (fun t => (t.out, t.outLen)) =
    some (#v[0x53, 0x1A, 0, 0, 0, 0], 2) := by decide
/-- V-E6: the sum wraps. -/
theorem test_encWr_wraps : (stateOf (exec (.encWr 15 0xFF 0xFFFFFF) State.reset)).map (fun t => (t.out, t.outLen, t.ck)) =
    some (#v[0xAF, 0xFF, 0xFF, 0xFF, 0xFF, 0x54], 6, 0x54) := by decide
/-- V-E7: bits 31:24 discarded. -/
theorem test_encWr_truncates : (stateOf (exec (.encWr 7 0x12 0x12345678) State.reset)).map (fun t => t.out) =
    some #v[0xA7, 0x12, 0x78, 0x56, 0x34, 0x44] := by decide
/-- V-E11. -/
theorem test_packLe : (stateOf (exec (.packLe 0xFF123456) State.reset)).map (fun t => (t.out, t.outLen)) =
    some (#v[0x56, 0x34, 0x12, 0, 0, 0], 3) := by decide
/-- V-C2: the accumulator wraps to 0. -/
theorem test_cksum_wraps : (stateOf (exec (.cksum 0xFF 1) (withIn [0x01]))).map (fun t => (t.ck, t.status)) =
    some (0xFF, 1) := by decide
/-- V-C1: length 0. -/
theorem test_cksum_empty : (stateOf (exec (.cksum 0x50 0) State.reset)).map (fun t => t.ck) = some 0xAF := by decide
/-- V-C8: the sum 0x2184 wraps to 0x84. -/
theorem test_valCk_wraps :
    (stateOf (exec (.valCk 0) (withIn (0x55 :: (List.replicate 33 0xFF ++ [0x7B]))))).map (fun t => (t.ck, t.ckOk, t.status)) =
    some (0x7B, true, 1) := by decide
/-- V-C10: the §8 value fails. -/
theorem test_valCk_ab : (stateOf (exec (.valCk 0) (withIn (zeroFrame 0x55 0xAB)))).map (fun t => (t.ck, t.ckOk, t.status)) =
    some (0x5A, false, 2) := by decide
/-- V-U2. -/
theorem test_unpkBeU : (stateOf (exec .unpkBeU (withIn [0xFF, 0xFF, 0xFF]))).map (fun t => t.rval) = some 0x00FFFFFF := by decide
/-- V-U7. -/
theorem test_unpkBeS : (stateOf (exec .unpkBeS (withIn [0x80, 0x00, 0x01]))).map (fun t => t.rval) = some 0xFF800001 := by decide
/-- V-U9. -/
theorem test_unpkLeU : (stateOf (exec .unpkLeU (withIn [0x12, 0x34, 0x56]))).map (fun t => t.rval) = some 0x00563412 := by decide
/-- V-P2. -/
theorem test_decResp : (stateOf (exec .decResp (withIn frameP1))).map (fun t => (t.field, t.status, t.ck)) =
    some (#v[0x00123456, 0x00000F42, 0x000003E8, 0xFFFFFFFF, 0xFF800000, 0x00000001, 0x007FFFFF, 0x00ABCDEF, 0x00000000,
      0x007FFFFF, 0xFFFFFFFE], 1, 0) := by decide
/-- V-P9: bit 7 of the header differs. -/
theorem test_decResp_d5 : (stateOf (exec .decResp (withIn [0xD5]))).map (fun t => t.status) = some 3 := by decide
/-- V-P1. -/
theorem test_parse : (stateOf (exec (.parse 0) (withIn frameP1))).map (fun t => (t.ck, t.ckOk, t.status, t.field[4])) =
    some (0xA7, true, 1, 0xFF800000) := by decide
/-- V-P6: both wrong, the checksum is reported. -/
theorem test_parse_precedence : (stateOf (exec (.parse 0) (withIn (zeroFrame 0x54 0x5A)))).map (fun t => (t.ck, t.ckOk, t.status)) =
    some (0x5B, false, 2) := by decide
/-- V-R4: unsigned. -/
theorem test_valRb : (stateOf (exec (.valRb 15 0xFF) (withIn [0xFF, 0xFF, 0xFF, 0xA4]))).map
    (fun t => (t.ck, t.ckOk, t.rval, t.status)) = some (0xA4, true, 0x00FFFFFF, 1) := by decide
/-- V-R6: the write frame's checksum byte is not the response's. -/
theorem test_valRb_write_checksum : (stateOf (exec (.valRb 1 0x18) (withIn [0x00, 0x10, 0x00, 0x36]))).map
    (fun t => (t.ck, t.ckOk, t.rval, t.status)) = some (0x86, false, 0, 2) := by decide
/-- V-X4, as a step from reset. -/
theorem test_step_reserved : (stateOf (step (State.reset.withFetchWord 32 0xF))).map (fun t => (t.status, t.out)) =
    some (7, #v[0, 0, 0, 0, 0, 0]) := by decide
/-- V-X5, as a step: OUT unchanged. -/
theorem test_step_rsv : (stateOf (step (State.reset.withFetchWord 32 0x00400001))).map (fun t => (t.status, t.outLen)) =
    some (7, 0) := by decide
/-- A read response on the link stands at IN[0..3]. -/
theorem test_read_response_arrives : (stateOf (step (State.reset.putPending [.present (.frame [0x00, 0x02, 0x00, 0x95])]))).map
    (fun t => (t.inp[1], t.inp[3], t.status)) = some (0x02, 0x95, 0) := by decide
/-- A response frame with a bad header still arrives (R84). -/
theorem test_bad_header_arrives : (stateOf (step (State.reset.putPending [.present (.frame (zeroFrame 0x54 0x5B))]))).map
    (fun t => (t.inp[0], t.inp[34], t.status)) = some (0x54, 0x5B, 0) := by decide
/-- V-X1 as an event: reset clears the registers and leaves what is pending. -/
theorem test_reset_event : (stateOf (step ((State.reset.putStatus 7).putPending [.reset, .reset]))).map
    (fun t => (t.status, t.pending)) = some (0, [.reset]) := by decide
/-- R85: a line's code (V-E7). -/
theorem test_assemble_encWr : commandLine "ENC_WR" [7, 0x12, 0x12345678] =
    some (.present (.command 0x00001273 0x12345678)) := by decide
/-- R85: an operand that does not fit is no line. -/
theorem test_assemble_address_16 : assembleLine "PARSE" [16] = none := by decide
/-- R183: the correct response to a read of 0x001000 from register 0x18 at address 1. -/
theorem test_read_response_bytes : readResponse hw 1 0x18 0x001000 = [0x00, 0x10, 0x00, 0x86] := by decide
/-- R167's builder gives frame V-P1. -/
theorem test_response_frame : responseFrame hw 0
    #v[0x123456, 0x000F42, 0x0003E8, 0xFFFFFF, 0x800000, 0x000001, 0x7FFFFF, 0xABCDEF, 0x000000, 0x7FFFFF, 0xFFFFFE] =
    inOfList frameP1 := by decide
/-- R234: the initialisation presents no command the block calls illegal, whatever the open register ids are. -/
theorem test_init_commands_legal (a : Addr) (hz : Bool) : ∀ i ∈ initCommands a hz, i.wf = true := by
  simp [initCommands, Instr.wf]

/-! ## A witness for the hypotheses of every obligation that has some -/

/-- A word with op `op`, `rsv` 0 and every other bit set meets the hypotheses of `opDecodes`. -/
def opWitness (op : BitVec 4) : Prop :=
  ∃ cmd : Word, cmd.extractLsb' 0 4 = op ∧ cmd.extractLsb' 22 2 = 0#2 ∧ cmd.extractLsb' 24 8 = 0xFF#8

theorem witness_EncTreqBuildsTelemetryRequest : opWitness 0x1 := ⟨0xFF3FFFF1, by decide⟩
theorem witness_EncRreqBuildsRegisterReadRequest : opWitness 0x2 := ⟨0xFF3FFFF2, by decide⟩
theorem witness_EncWrBuildsRegisterWriteFrame : opWitness 0x3 := ⟨0xFF3FFFF3, by decide⟩
theorem witness_PackLeSplitsValueLowByteFirst : opWitness 0x4 ∧
    ∃ (s : State) (value : Word), s.inp[0] = value.extractLsb' 0 8 ∧ s.inp[1] = value.extractLsb' 8 8 ∧
      s.inp[2] = value.extractLsb' 16 8 := ⟨⟨0xFF3FFFF4, by decide⟩, withIn [0x78, 0x56, 0x34], 0x12345678, by decide⟩
theorem witness_CksumSumsAndInvertsThePrefix :
    (35 : Len).toNat ≤ 35 ∧ 35 < (36 : Len).toNat ∧ (0x00230005#32).extractLsb' 0 4 = 0x5#4 ∧
    (0x00230005#32).extractLsb' 22 2 = 0#2 ∧ ((0x00230005#32).extractLsb' 16 6).toNat ≤ 35 ∧
    (0x00240005#32).extractLsb' 0 4 = 0x5#4 ∧ (0x00240005#32).extractLsb' 22 2 = 0#2 ∧
    35 < ((0x00240005#32).extractLsb' 16 6).toNat := by decide
theorem witness_ValCkComparesTrailingByte : opWitness 0x6 := ⟨0xFF3FFFF6, by decide⟩
theorem witness_UnpkBeUAssemblesBigEndianUnsigned : opWitness 0x7 := ⟨0xFF3FFFF7, by decide⟩
theorem witness_UnpkBeSSignExtendsFromBit23 : opWitness 0x8 := ⟨0xFF3FFFF8, by decide⟩
theorem witness_UnpkLeUAssemblesLittleEndianUnsigned : opWitness 0x9 := ⟨0xFF3FFFF9, by decide⟩
theorem witness_DecRespChecksHeaderAndExtractsFields : opWitness 0xA ∧ (withIn [0x55]).inp[0] = 0x55#8 ∧
    (withIn [0x56]).inp[0] ≠ 0x55#8 := ⟨⟨0xFF3FFFFA, by decide⟩, by decide⟩
theorem witness_ParseValidatesThenDecodes : opWitness 0xB := ⟨0xFF3FFFFB, by decide⟩
theorem witness_ValRbChecksThenAssemblesReadback : opWitness 0xC := ⟨0xFF3FFFFC, by decide⟩
theorem witness_ReservedOpCodesWriteOnlyIllegal :
    (0xFFFFFFF0#32).extractLsb' 0 4 = 0x0#4 ∧ (0xFFFFFFFD#32).extractLsb' 0 4 = 0xD#4 ∧
    (0xFFFFFFFE#32).extractLsb' 0 4 = 0xE#4 ∧ (0xFFFFFFFF#32).extractLsb' 0 4 = 0xF#4 := by decide

/-- A queue with one command. -/
def presenting (cmd value : Word) : State := State.reset.putPending [.present (.command cmd value)]

theorem witness_ExactlyTheIllegalCommandsEndIllegal :
    (∃ (s : State) (rest : List Event), s.pending = .present (.command 0x00240005 0) :: rest ∧ illegalCmd 0x00240005) ∧
    (∃ (s : State) (rest : List Event), s.pending = .present (.command 0x00400001 0) :: rest ∧ illegalCmd 0x00400001) ∧
    (∃ (s : State) (rest : List Event), s.pending = .present (.command 0x0000000D 0) :: rest ∧ illegalCmd 0x0000000D) ∧
    (∃ (s : State) (rest : List Event), s.pending = .present (.command 0x00230005 0) :: rest ∧ ¬ illegalCmd 0x00230005) :=
  ⟨⟨presenting 0x00240005 0, [], rfl, by unfold illegalCmd; decide⟩,
   ⟨presenting 0x00400001 0, [], rfl, by unfold illegalCmd; decide⟩,
   ⟨presenting 0x0000000D 0, [], rfl, by unfold illegalCmd; decide⟩,
   ⟨presenting 0x00230005 0, [], rfl, by unfold illegalCmd; decide⟩⟩
/-- ENC_WR words that differ in `len` and `seed`, with values that differ in bits 31:24. -/
theorem witness_UnreadOperandsHaveNoEffect :
    let cmd := 0x00001273#32; let cmd' := 0xFF3F1273#32; let value := 0x00345678#32; let value' := 0x12345678#32
    cmd ≠ cmd' ∧ cmd.extractLsb' 0 4 = cmd'.extractLsb' 0 4 ∧ cmd.extractLsb' 22 2 = cmd'.extractLsb' 22 2 ∧
    ((cmd.extractLsb' 0 4).toNat ∈ [1, 2, 3, 6, 0xB, 0xC] → cmd.extractLsb' 4 4 = cmd'.extractLsb' 4 4) ∧
    ((cmd.extractLsb' 0 4).toNat ∈ [2, 3, 0xC] → cmd.extractLsb' 8 8 = cmd'.extractLsb' 8 8) ∧
    ((cmd.extractLsb' 0 4).toNat = 5 → cmd.extractLsb' 16 6 = cmd'.extractLsb' 16 6 ∧ cmd.extractLsb' 24 8 = cmd'.extractLsb' 24 8) ∧
    ((cmd.extractLsb' 0 4).toNat ∈ [3, 4] → value.extractLsb' 0 24 = value'.extractLsb' 0 24) := by decide
theorem witness_UnreadInputBytesHaveNoEffect : isWireFrame (.valRb 0 0) = false ∧
    (inOfList [1, 2, 3, 4, 5]) ≠ (withIn [1, 2, 3, 4]).inp ∧
    ∀ j : Fin 35, j.val < readCount (.valRb 0 0) → (inOfList [1, 2, 3, 4, 5])[j] = (withIn [1, 2, 3, 4]).inp[j] := by decide
theorem witness_ChecksumIsTheOrderFreeSum : [1#8, 2#8].Perm [2#8, 1#8] := by decide
theorem witness_WriteFrameChecksItself : ∃ t, exec (.encWr 0 0x19 0x5A5A5A) State.reset = .next t := ⟨_, rfl⟩
theorem witness_SingleByteErrorIsDetected : ∃ t, exec (.valCk 0) (withIn (zeroFrame 0x55 0x5A)) = .next t ∧ t.ckOk = true ∧
    (0x5B#8 ≠ (withIn (zeroFrame 0x55 0x5A)).inp[(34 : Fin 35)]) ∧ (1#8 ≠ (withIn (zeroFrame 0x55 0x5A)).inp[(33 : Fin 35)]) :=
  ⟨_, rfl, by decide⟩
/-- Bytes 2 and 3 swapped (L3-3 step 4). -/
theorem witness_ReorderedFrameIsNotDetected :
    ((inOfList [0x55, 0, 0xE8, 3]).toList.take 34).Perm ((withIn [0x55, 0, 3, 0xE8]).inp.toList.take 34) ∧
    (inOfList [0x55, 0, 0xE8, 3])[34] = (withIn [0x55, 0, 3, 0xE8]).inp[34] := by decide
theorem witness_SeedBindsAFrameToOneAddress :
    (∃ t t', exec (.valCk 15) (withIn (zeroFrame 0x55 0x4B)) = .next t ∧ exec (.valCk 15) (withIn (zeroFrame 0x55 0x4B)) = .next t' ∧
      t.ckOk = true ∧ t'.ckOk = true) ∧
    (∃ t t', (14 : Addr).toNat < 15 ∧ exec (.valCk 14) State.reset = .next t ∧ exec (.valCk (14 + 1)) State.reset = .next t') :=
  ⟨⟨_, _, rfl, rfl, by decide⟩, _, _, by decide, rfl, rfl⟩
theorem witness_SignedAndUnsignedReadingsCompared :
    (∃ t u, exec .unpkBeS (withIn [0x7F]) = .next t ∧ exec .unpkBeU (withIn [0x7F]) = .next u ∧ (withIn [0x7F]).inp[0].toNat < 0x80) ∧
    (∃ t u, exec .unpkBeS (withIn [0x80]) = .next t ∧ exec .unpkBeU (withIn [0x80]) = .next u ∧ 0x80 ≤ (withIn [0x80]).inp[0].toNat) :=
  ⟨⟨_, _, rfl, rfl, by decide⟩, _, _, rfl, rfl, by decide⟩
theorem witness_PackAndUnpackRoundTrip :
    (∃ t, exec (.packLe 0x12345678) State.reset = .next t ∧ (withIn [0x78, 0x56, 0x34]).inp[0] = t.out[0] ∧
      (withIn [0x78, 0x56, 0x34]).inp[1] = t.out[1] ∧ (withIn [0x78, 0x56, 0x34]).inp[2] = t.out[2]) ∧
    ∃ t, exec .unpkBeU State.reset = .next t := ⟨⟨_, rfl, by decide⟩, _, rfl⟩
/-- V-P6. -/
theorem witness_ChecksumFailureTakesPrecedence :
    ck (0x50#8 ||| (0 : Addr).setWidth 8) ((withIn (zeroFrame 0x54 0x5A)).inp.toList.take 34) ≠ (withIn (zeroFrame 0x54 0x5A)).inp[34] ∧
    (withIn (zeroFrame 0x54 0x5A)).inp[0] ≠ 0x55#8 := by decide
theorem witness_ParseRecoversTheEncodedFields : ∃ s : State, s.inp = responseFrame hw 15 (Vector.replicate 11 0x800000) :=
  ⟨State.reset.putInp _, rfl⟩
/-- A record with another header and mask, little-endian fields, and 3 fields in a frame of 11 bytes. -/
def shortConfig : Config :=
  { hw with header := 0x5A, invert := 0x00, fieldOrder := .little, respLen := 11, nFields := 3 }
theorem witness_ParseRoundTripInEveryConfiguration :
    (hw.fits ∧ ∃ s : State, s.inp = responseFrame hw 3 (Vector.replicate 11 0x123456)) ∧
    (shortConfig.fits ∧ ∃ s : State, s.inp = responseFrame shortConfig 3 (Vector.replicate 11 0x123456)) :=
  ⟨⟨by decide, State.reset.putInp _, rfl⟩, by decide, State.reset.putInp _, rfl⟩
theorem witness_ParseIsValCkThenDecResp :
    (∃ t, exec (.valCk 0) (withIn frameP1) = .next t ∧ t.status = 1) ∧ (∃ t, exec (.valCk 3) (withIn frameP1) = .next t ∧ t.status ≠ 1) :=
  ⟨⟨_, rfl, by decide⟩, _, rfl, by decide⟩
/-- V-R1. -/
theorem witness_WrongIdOrAddressFailsReadback : ∃ t, exec (.valRb 0 0x18) (withIn [0x00, 0x02, 0x00, 0x95]) = .next t ∧ t.status = 1 ∧
    (0x19#8 ≠ 0x18#8) ∧ (1#4 ≠ 0#4) := ⟨_, rfl, by decide⟩
/-- R183's example. -/
theorem witness_ReadbackAfterWriteGivesTheValue : ∃ t, exec (.encWr 1 0x18 0x001000) State.reset = .next t ∧
    (withIn [0x00, 0x10, 0x00, 0x86]).inp[0] = t.out[2] ∧ (withIn [0x00, 0x10, 0x00, 0x86]).inp[1] = t.out[3] ∧
    (withIn [0x00, 0x10, 0x00, 0x86]).inp[2] = t.out[4] ∧ (withIn [0x00, 0x10, 0x00, 0x86]).inp[3] = t.out[5] + 0x50#8 :=
  ⟨_, rfl, by decide⟩
theorem witness_FreshDataIsThisOperationsResult :
    (∃ t, exec .decResp (withIn frameP1) = .next t ∧ freshAfter .decResp .field t = true ∧ freshAfter .decResp .rval t = false) ∧
    (∃ t, exec .decResp State.reset = .next t ∧ freshAfter .decResp .field t = false) ∧
    (∃ t, exec .unpkBeU (withIn [0x80]) = .next t ∧ freshAfter .unpkBeU .rval t = true) ∧
    (∃ t, exec .unpkBeS (withIn [0x80]) = .next t ∧ freshAfter .unpkBeS .rval t = true) ∧
    (∃ t, exec .unpkLeU (withIn [0x80]) = .next t ∧ freshAfter .unpkLeU .rval t = true) ∧
    (∃ t, exec (.valRb 0 0x18) (withIn [0x00, 0x02, 0x00, 0x95]) = .next t ∧ freshAfter (.valRb 0 0x18) .rval t = true) :=
  ⟨⟨_, rfl, by decide⟩, ⟨_, rfl, by decide⟩, ⟨_, rfl, by decide⟩, ⟨_, rfl, by decide⟩, ⟨_, rfl, by decide⟩, _, rfl, by decide⟩
theorem witness_OnlyTheNamedOperationsWriteARegister :
    (∃ t, exec (.encWr 0 0 0) State.reset = .next t ∧ t.out ≠ State.reset.out ∧ t.ck ≠ State.reset.ck) ∧
    (∃ t, exec (.parse 0) (withIn frameP1) = .next t ∧ t.field ≠ (withIn frameP1).field ∧ t.ckOk ≠ (withIn frameP1).ckOk) ∧
    (∃ t, exec .unpkBeU (withIn [1]) = .next t ∧ t.rval ≠ (withIn [1]).rval) ∧
    (∃ t, exec .reserved0 State.reset = .next t ∧ t.status ≠ State.reset.status) ∧
    (∃ t, exec (.wireRegisterReadResponse 1 2 3 4) State.reset = .next t ∧ t.inp ≠ State.reset.inp) :=
  ⟨⟨_, rfl, by decide⟩, ⟨_, rfl, by decide⟩, ⟨_, rfl, by decide⟩, ⟨_, rfl, by decide⟩, _, rfl, by decide⟩
theorem witness_CkOkIsTheHeldCheckResult : ∃ t, exec .decResp State.reset = .next t ∧ (∀ a, Instr.decResp ≠ .valCk a) ∧
    (∀ a, Instr.decResp ≠ .parse a) ∧ (∀ a r, Instr.decResp ≠ .valRb a r) := ⟨_, rfl, by simp⟩
theorem witness_ResultsDependOnInputsOnly : isWireFrame (.parse 0) = false ∧ (withIn frameP1).inp = ((withIn frameP1).putCk 9).inp ∧
    withIn frameP1 ≠ (withIn frameP1).putCk 9 := by decide
theorem witness_NoErrorStopsTheBlock : isWireFrame .reserved0 = false := by decide
theorem witness_StepKeepsTheInvariant : ∃ s t, Inv s ∧ step s = .next t ∧ t.status ≠ s.status := by
  refine ⟨presenting 0x00000051 0, _, ?_, rfl, by decide⟩
  exact ⟨.inl rfl, .inl rfl, by decide, fun k => ⟨0, by revert k; decide⟩, ⟨0, .inl (by decide)⟩, fun _ => rfl⟩
theorem witness_StepRunsTheDecodedInstruction : ∃ (s : State) (rest : List Event),
    s.pending = .present (.command 0x00000051 0) :: rest ∧ decode (.command 0x00000051 0) = .ok (.encTreq 5) :=
  ⟨presenting 0x00000051 0, [], rfl, rfl⟩
theorem witness_StepTakesTheOtherEvents :
    State.reset.pending = [] ∧ (State.reset.putPending [.driveIn (inOfList [1])]).pending = [.driveIn (inOfList [1])] ∧
    (State.reset.putPending [.reset]).pending = [.reset] ∧
    (presenting 0x00400001 0).pending = [.present (.command 0x00400001 0)] ∧ decode (.command 0x00400001 0) = .error .reservedBits ∧
    (∃ (s : State) (bs : List Byte) (rest : List Event), s.pending = .present (.frame bs) :: rest ∧
      decode (.frame bs) = .error .badHeader) ∧
    (∃ (s : State) (bs : List Byte) (rest : List Event), s.pending = .present (.frame bs) :: rest ∧
      decode (.frame bs) = .error .notAFrameLength ∧ bs.length = 3) ∧
    (∃ (s : State) (bs : List Byte) (rest : List Event), s.pending = .present (.frame bs) :: rest ∧
      decode (.frame bs) = .error .notAReadCommandByte) ∧
    (∃ (s : State) (bs : List Byte) (rest : List Event), s.pending = .present (.frame bs) :: rest ∧
      decode (.frame bs) = .error .notAWriteCommandByte) :=
  ⟨rfl, rfl, rfl, rfl, rfl, ⟨State.reset.putPending _, zeroFrame 0x54 0x5B, [], rfl, rfl⟩,
   ⟨State.reset.putPending _, [0x55, 0, 0], [], rfl, rfl, rfl⟩,
   ⟨State.reset.putPending _, [0x60, 0xAA], [], rfl, rfl⟩,
   ⟨State.reset.putPending _, [0x50, 0, 0, 0, 0, 0xAF], [], rfl, rfl⟩⟩
theorem witness_DecodeOfEncodeIsTheInstruction : (Instr.cksum 0xFF 35).wf = true ∧ (Instr.wireRegisterReadRequest 15 0xFF).wf = true ∧
    (Instr.wireResponseFrame (inOfList frameP1)).wf = true := by decide
theorem witness_DecodeAnswersWellFormedInstructions : decode (.frame [0x53, 0x1A]) = .ok (.wireRegisterReadRequest 3 0x1A) := by rfl
theorem witness_ArrivingReadResponseValidates : ∃ (s : State) (rest : List Event),
    s.pending = .present (.frame (readResponse hw 1 0x18 0x001000)) :: .present (encode (.valRb 1 0x18)) :: rest :=
  ⟨State.reset.putPending _, [], rfl⟩

end Sys2Proof.Tests
end

section
/-! The assemblers and the sign extension as the rules write them (spec/00_scope.md R15, R16). -/

namespace Sys2Proof.Machine

open Sys2Proof.Spec

/-! ## Assemblers (R15) -/

theorem le24_eq_join24 (lo mid hi : Byte) : le24 lo mid hi = join24 hi mid lo := le24_eq_shift_or lo mid hi

theorem be24_eq_join24 (h m l : Byte) : be24 h m l = join24 h m l := by
  rw [be24_eq_le24, le24_eq_join24]

theorem leBytes_eq_slices (v : Word24) :
    leBytes v = [v.extractLsb' 0 8, v.extractLsb' 8 8, v.extractLsb' 16 8] := rfl

/-! ## Sign extension (R16) -/

theorem msb_eq_bit23 (v : Word24) : v.msb = v[23] := by
  rw [BitVec.msb_eq_getLsbD_last, BitVec.getLsbD_eq_getElem (by decide)]

/-- The mask of R16 is the eight bits above bit 23. -/
theorem getElem_signMask (i : Nat) (hi : i < 32) : (0xFF000000#32)[i] = decide (24 ≤ i) := by
  revert i; decide

/-- Copying bit 23 upward is the conditional OR of R16: below bit 24 both are `v`, above it both are bit 23. -/
theorem sext32_eq_sext (v : Word24) : sext32 v = sext v := by
  ext i hi
  rw [sext32, BitVec.getElem_signExtend, msb_eq_bit23, sext]
  by_cases low : i < 24
  · have noMask : ¬ 24 ≤ i := by omega
    cases v[23] <;> simp [low, noMask, getElem_signMask]
  · have mask : 24 ≤ i := by omega
    cases v[23] <;> simp [low, mask, getElem_signMask]

/-- The signed value of a sign-extended field is the field's own two's-complement value. -/
theorem toInt_sext32 (v : Word24) :
    (sext32 v).toInt = if v[23] then (v.toNat : Int) - 16777216 else (v.toNat : Int) := by
  have keeps : (sext32 v).toInt = v.toInt := BitVec.toInt_signExtend_of_le (by decide)
  rw [keeps, BitVec.toInt_eq_msb_cond, msb_eq_bit23]
  rfl

end Sys2Proof.Machine

open Sys2Proof.Machine

/-- Settles O18: each assembler is the rule's shift and OR, and the round trip is `le24_byteOf`. -/
theorem assemblersAreShiftsAndOrs : Obligations.AssemblersAreShiftsAndOrs :=
  ⟨be24_eq_join24, le24_eq_join24, leBytes_eq_slices, le24_byteOf⟩

/-- Settles O19: bit by bit against R16's mask, and as an integer because sign extension keeps the signed value. -/
theorem signExtensionIsFromBit23 : Obligations.SignExtensionIsFromBit23 :=
  fun v => ⟨sext32_eq_sext v, toInt_sext32 v⟩

end

section
/-! The flag CK_OK (spec/10_state.md R34): the three checks overwrite it without reading it, every other instruction carries it through. -/

namespace Sys2Proof.Machine

variable (cfg : Config) (addr : Addr) (s : State) (x : Bool)

/-! ## The three checks leave the comparison in the flag -/

theorem validateResponse_ckOk_iff :
    (validateResponse hw addr s).ckOk = true ↔ (validateResponse hw addr s).ck = s.inp[34] := by
  rcases validateResponse_hw addr s with ⟨-, h⟩ | ⟨-, h⟩ <;> simp [h, checkOk_iff]

theorem parseResponse_ckOk_iff :
    (parseResponse hw addr s).ckOk = true ↔ (parseResponse hw addr s).ck = s.inp[34] := by
  rcases parseResponse_hw addr s with ⟨-, h⟩ | ⟨-, -, h⟩ | ⟨-, -, h⟩ <;> simp [h, checkOk_iff]

theorem validateReadback_ckOk_iff (reg : Byte) :
    (validateReadback hw addr reg s).ckOk = true ↔ (validateReadback hw addr reg s).ck = s.inp[3] := by
  rcases validateReadback_hw addr s reg with ⟨-, h⟩ | ⟨-, h⟩ <;> simp [h, checkOk_iff]

/-! ## What an earlier flag does to an instruction -/

/-- Neither branch of CKSUM reads or writes the flag. -/
theorem checksumOf_with_ckOk (seed : Byte) (len : Len) :
    checksumOf cfg seed len { s with ckOk := x } = { checksumOf cfg seed len s with ckOk := x } := by
  unfold checksumOf
  split <;> rfl

/-- Neither branch of DEC_RESP reads or writes the flag. -/
theorem decodeResponse_with_ckOk :
    decodeResponse cfg { s with ckOk := x } = { decodeResponse cfg s with ckOk := x } := by
  unfold decodeResponse
  dsimp only
  split <;> rfl

/-- The checks store the comparison before they test the flag, so the earlier flag is lost: every field ends the same. -/
theorem exec_with_ckOk_of_check (i : Instr)
    (check : (∃ a, i = .valCk a) ∨ (∃ a, i = .parse a) ∨ ∃ a r, i = .valRb a r) :
    exec i { s with ckOk := x } = exec i s := by
  rcases check with ⟨a, rfl⟩ | ⟨a, rfl⟩ | ⟨a, r, rfl⟩ <;> rfl

/-- An instruction that is no check carries the flag through: set before it, the flag is as if set after it. -/
theorem exec_with_ckOk_of_not_check (i : Instr) (hv : ∀ a, i ≠ .valCk a) (hp : ∀ a, i ≠ .parse a)
    (hr : ∀ a r, i ≠ .valRb a r) :
    ∃ t, exec i s = .next t ∧ exec i { s with ckOk := x } = .next { t with ckOk := x } := by
  cases i with
  | valCk a => exact absurd rfl (hv a)
  | parse a => exact absurd rfl (hp a)
  | valRb a r => exact absurd rfl (hr a r)
  | cksum seed len => exact ⟨_, rfl, congrArg _ (checksumOf_with_ckOk hw s x seed len)⟩
  | decResp => exact ⟨_, rfl, congrArg _ (decodeResponse_with_ckOk hw s x)⟩
  | _ => exact ⟨_, rfl, rfl⟩

/-- Setting the flag to the value it has changes nothing before the instruction, so nothing after it. -/
theorem exec_keeps_ckOk_of_not_check (i : Instr) (t : State) (h : exec i s = .next t) (hv : ∀ a, i ≠ .valCk a)
    (hp : ∀ a, i ≠ .parse a) (hr : ∀ a r, i ≠ .valRb a r) : t.ckOk = s.ckOk := by
  obtain ⟨t', ht, hset⟩ := exec_with_ckOk_of_not_check s s.ckOk i hv hp hr
  have same : t' = { t' with ckOk := s.ckOk } := Host.Outcome.next.inj (ht.symm.trans hset)
  cases h.symm.trans ht
  rw [same]

/-- No instruction reads the flag: whatever it was before, every other field ends the same. -/
theorem exec_reads_no_ckOk (i : Instr) :
    ∃ t t', exec i s = .next t ∧ exec i { s with ckOk := x } = .next t' ∧ t' = { t with ckOk := t'.ckOk } := by
  by_cases check : (∃ a, i = .valCk a) ∨ (∃ a, i = .parse a) ∨ ∃ a r, i = .valRb a r
  · obtain ⟨t, ht, -⟩ := exec_effect i s
    exact ⟨t, t, ht, (exec_with_ckOk_of_check s x i check).trans ht, rfl⟩
  · push Not at check
    obtain ⟨hv, hp, hr⟩ := check
    obtain ⟨t, ht, hset⟩ := exec_with_ckOk_of_not_check s x i hv hp hr
    exact ⟨t, _, ht, hset, rfl⟩

end Sys2Proof.Machine

open Sys2Proof.Machine

/-- Settles O35: the three checks leave the comparison, the others carry the flag through, and a flag that is overwritten or carried through is read by nothing. -/
theorem ckOkIsTheHeldCheckResult : Obligations.CkOkIsTheHeldCheckResult :=
  ⟨fun s a r => ⟨_, _, _, rfl, rfl, rfl, validateResponse_ckOk_iff a s, parseResponse_ckOk_iff a s, validateReadback_ckOk_iff a s r⟩,
   fun i s t h hv hp hr => exec_keeps_ckOk_of_not_check s i t h hv hp hr,
   resetBlock_ckOk,
   fun i s x => exec_reads_no_ckOk s x i⟩

end

section
/-! The frame encoders and the packer (spec/41_encoders.md): the bytes they send as the rules write them, and which commands decode to them. -/

namespace Sys2Proof.Machine

open Sys2Proof.Spec

/-! ## The checksum as the closed formula (R14) -/

theorem sum_eq_ofNat_sum_toNat (b : List Byte) : b.sum = BitVec.ofNat 8 (b.map BitVec.toNat).sum := by
  induction b with
  | nil => rfl
  | cons x xs ih => simp [ih, BitVec.ofNat_add]

/-- Reducing modulo 256 at each addition or once at the end gives the same byte. -/
theorem cksum_hw_eq_ck (seed : Byte) (b : List Byte) : cksum hw seed b = ck seed b := by
  have sums : seed + b.sum = BitVec.ofNat 8 (seed.toNat + (b.map BitVec.toNat).sum) := by
    simp [sum_eq_ofNat_sum_toNat, BitVec.ofNat_add]
  rw [cksum_eq_sum, sums]
  rfl

/-! ## The three low bytes of VALUE (R81) -/

/-- A byte of `VALUE[23:0]` is a slice of the port itself: bits 31:24 lie above all three. -/
theorem byteOf_value24 (value : Word) (j : Nat) (h : j < 3) :
    byteOf (value24 value) j = value.extractLsb' (8 * j) 8 := by
  ext i hi
  have below24 : 8 * j + i < 24 := by omega
  simp [byteOf, value24, below24]

theorem leBytes_value24 (value : Word) :
    leBytes (value24 value) = [value.extractLsb' 0 8, value.extractLsb' 8 8, value.extractLsb' 16 8] := by
  simp [leBytes, byteOf_value24]

theorem le24_slices_eq_value24 (value : Word) :
    le24 (value.extractLsb' 0 8) (value.extractLsb' 8 8) (value.extractLsb' 16 8) = value24 value := by
  simpa [byteOf_value24] using le24_byteOf (value24 value)

/-! ## What the encoders leave -/

/-- A frame of `n` bytes is sent whole: `OUT`, `OUT_LEN` and `STATUS` are written and nothing else. -/
theorem encodeFrame_of_length (s : State) (n : Nat) (frame : List Byte) (h : frame.length = n) :
    encodeFrame n frame s = { s with out := padOut frame, outLen := BitVec.ofNat 3 n, status := stOk } := by
  rw [encodeFrame_eq, putOut_eq s n frame h]
  rfl

theorem writeBody_value24 (addr : Addr) (reg : Byte) (value : Word) :
    writeBody hw addr reg (value24 value) =
      [0xA0#8 ||| addr.setWidth 8, reg, value.extractLsb' 0 8, value.extractLsb' 8 8, value.extractLsb' 16 8] := by
  rw [writeBody, leBytes_value24]
  rfl

/-- The write frame is its body followed by the closed-formula checksum, which also goes to `CK` (R104). -/
theorem encodeWrite_hw (s : State) (addr : Addr) (reg : Byte) (value : Word) :
    encodeWrite hw addr reg value s =
      let body := writeBody hw addr reg (value24 value)
      { s with out := padOut (body ++ [ck 0 body]), outLen := 6, ck := ck 0 body, status := stOk } := by
  have whole : (writeFrame hw addr reg (value24 value)).length = hw.writeLen := rfl
  rw [encodeWrite_eq, putOut_eq s _ _ whole, writeFrame, writeCk, cksum_hw_eq_ck]
  rfl

/-! ## The meanings used here -/

theorem exec_encWr (s : State) (addr : Addr) (reg : Byte) (value : Word) :
    exec (.encWr addr reg value) s = .next (encodeWrite hw addr reg value s) := rfl

theorem exec_packLe (s : State) (value : Word) :
    exec (.packLe value) s = .next (encodeFrame 3 (leBytes (value24 value)) s) := rfl

theorem exec_unpkLeU (s : State) :
    exec .unpkLeU s = .next ((s.putRval (zext32 (le24 s.inp[0] s.inp[1] s.inp[2]))).putStatus stOk) := rfl

/-! ## Which commands decode to an encoder (R70, R74, R75) -/

/-- `opDecodes` in the decoder's own names for the fields of CMD. -/
theorem opDecodes_iff (op : BitVec 4) (i : Word → Word → Instr) :
    opDecodes op i ↔ ∀ cmd value, cmdOp cmd = op → cmdRsv cmd = 0#2 → decodeCommand cmd value = .ok (i cmd value) :=
  Iff.rfl

theorem opDecodes_encTreq : opDecodes 0x1#4 (fun cmd _ => .encTreq (cmdAddr cmd)) :=
  (opDecodes_iff _ _).mpr fun cmd value op rsv => by simpa [op, rsv] using decodeCommand_cases cmd value

theorem opDecodes_encRreq : opDecodes 0x2#4 (fun cmd _ => .encRreq (cmdAddr cmd) (cmdReg cmd)) :=
  (opDecodes_iff _ _).mpr fun cmd value op rsv => by simpa [op, rsv] using decodeCommand_cases cmd value

theorem opDecodes_encWr : opDecodes 0x3#4 (fun cmd value => .encWr (cmdAddr cmd) (cmdReg cmd) value) :=
  (opDecodes_iff _ _).mpr fun cmd value op rsv => by simpa [op, rsv] using decodeCommand_cases cmd value

theorem opDecodes_packLe : opDecodes 0x4#4 (fun _ value => .packLe value) :=
  (opDecodes_iff _ _).mpr fun cmd value op rsv => by simpa [op, rsv] using decodeCommand_cases cmd value

end Sys2Proof.Machine

open Sys2Proof.Machine

/-- Settles O3: the frame is `writeBody` and its checksum, the body's value bytes are slices of the port. -/
theorem encWrBuildsRegisterWriteFrame : Obligations.EncWrBuildsRegisterWriteFrame := by
  refine ⟨fun s addr reg value => ?_, opDecodes_encWr⟩
  rw [exec_encWr, encodeWrite_hw, writeBody_value24]
  rfl

/-- Settles O4: the packed bytes are slices of the port, and `LE24` of the slices is its low 24 bits again. -/
theorem packLeSplitsValueLowByteFirst : Obligations.PackLeSplitsValueLowByteFirst := by
  refine ⟨fun s value => ?_, opDecodes_packLe, fun s value h0 h1 h2 => ?_⟩
  · rw [exec_packLe, leBytes_value24, encodeFrame_of_length s 3 _ rfl]
    rfl
  · rw [exec_unpkLeU, h0, h1, h2, le24_slices_eq_value24]
    rfl

/-- Settles O1: a whole frame of two bytes, the padding computed. -/
theorem encTreqBuildsTelemetryRequest : Obligations.EncTreqBuildsTelemetryRequest :=
  ⟨fun s _ => congrArg Host.Outcome.next (encodeFrame_of_length s 2 _ rfl), opDecodes_encTreq⟩

/-- Settles O2: as O1, with the register id as the second byte. -/
theorem encRreqBuildsRegisterReadRequest : Obligations.EncRreqBuildsRegisterReadRequest :=
  ⟨fun s _ _ => congrArg Host.Outcome.next (encodeFrame_of_length s 2 _ rfl), opDecodes_encRreq⟩

end

section
/-! The checksum core and the response-frame validator (spec/42_checksum.md): both registers of a check as the rules write them, and which commands decode to them. -/

namespace Sys2Proof.Machine

open Sys2Proof.Spec

/-! ## What CKSUM leaves (R120) -/

theorem exec_cksum (s : State) (seed : Byte) (len : Len) : exec (.cksum seed len) s = .next (checksumOf hw seed len s) := rfl

theorem checksumOf_of_le (s : State) (seed : Byte) (len : Len) (h : len.toNat ≤ 35) :
    checksumOf hw seed len s = { s with ck := ck seed (s.inp.toList.take len.toNat), status := stOk } := by
  rcases checksumOf_hw s seed len with ⟨above, -⟩ | ⟨-, sums⟩
  · omega
  · rw [sums, cksum_hw_eq_ck]
    rfl

theorem checksumOf_of_gt (s : State) (seed : Byte) (len : Len) (h : 35 < len.toNat) :
    checksumOf hw seed len s = { s with status := stIllegal } := by
  rcases checksumOf_hw s seed len with ⟨-, illegal⟩ | ⟨within, -⟩
  · exact illegal
  · omega

/-! ## What VAL_CK leaves (R122) -/

theorem exec_valCk (s : State) (addr : Addr) : exec (.valCk addr) s = .next (validateResponse hw addr s) := rfl

/-- The checksum of a response frame as the closed formula: seed `0x50 | addr`, bytes 0..33. -/
theorem responseCk_hw_eq_ck (addr : Addr) (b : InBuf) :
    responseCk hw addr b = ck (0x50#8 ||| addr.setWidth 8) (b.toList.take 34) := by
  rw [responseCk_hw, cksum_hw_eq_ck]
  rfl

/-- One comparison decides the flag and the status together. -/
theorem validateResponse_eq (addr : Addr) (s : State) :
    validateResponse hw addr s =
      let c := responseCk hw addr s.inp
      { s with ck := c, ckOk := decide (c = s.inp[34]), status := if c = s.inp[34] then stOk else stBadChecksum } := by
  rcases validateResponse_hw addr s with ⟨same, ends⟩ | ⟨differ, ends⟩
  · simp [ends, same, State.putCheck, State.putStatus, checkOk]
  · simp [ends, differ, State.putCheck, State.putStatus, checkOk]

/-! ## Which commands decode to them (R70, R74, R75) -/

/-- Op code 5 is the one whose operand the decoder checks: it accepts the lengths the input port holds. -/
theorem decodeCommand_cksum (cmd value : Word) (op : cmdOp cmd = 0x5#4) (rsv : cmdRsv cmd = 0#2) :
    decodeCommand cmd value =
      if (cmdLen cmd).toNat ≤ 35 then .ok (.cksum (cmdSeed cmd) (cmdLen cmd)) else .error .lenOutOfRange := by
  by_cases within : (cmdLen cmd).toNat ≤ 35
  · simpa [op, rsv, within, Nat.not_lt.mpr within] using decodeCommand_cases cmd value
  · simpa [op, rsv, within, Nat.lt_of_not_le within] using decodeCommand_cases cmd value

theorem opDecodes_valCk : opDecodes 0x6#4 (fun cmd _ => .valCk (cmdAddr cmd)) :=
  (opDecodes_iff _ _).mpr fun cmd value op rsv => by simpa [op, rsv] using decodeCommand_cases cmd value

end Sys2Proof.Machine

open Sys2Proof.Machine

/-- Settles O5: the two ranges of `len` are CKSUM's two cases, in its meaning and in the decoder. -/
theorem cksumSumsAndInvertsThePrefix : Obligations.CksumSumsAndInvertsThePrefix := by
  refine ⟨fun s seed len within => ?_, fun s seed len above => ?_, decodeCommand_cksum⟩
  · rw [exec_cksum, checksumOf_of_le s seed len within]
  · rw [exec_cksum, checksumOf_of_gt s seed len above]

/-- Settles O6: the flag and the status are one comparison, of the closed formula with `IN[34]`. -/
theorem valCkComparesTrailingByte : Obligations.ValCkComparesTrailingByte := by
  refine ⟨fun s addr => ?_, opDecodes_valCk⟩
  rw [exec_valCk, validateResponse_eq, responseCk_hw_eq_ck]

end

section
/-! The field unpackers (spec/43_field_unpack.md): the assembled word as the rules write it, and which commands decode to them. -/

namespace Sys2Proof.Machine

open Sys2Proof.Spec

/-! ## What the big-endian unpackers leave (R140, R142) -/

theorem exec_unpkBeU (s : State) :
    exec .unpkBeU s = .next ((s.putRval (zext32 (be24 s.inp[0] s.inp[1] s.inp[2]))).putStatus stOk) := rfl

theorem exec_unpkBeS (s : State) :
    exec .unpkBeS s = .next ((s.putRval (sext32 (be24 s.inp[0] s.inp[1] s.inp[2]))).putStatus stOk) := rfl

/-! ## The sign bit (R142) -/

/-- The sign of an assembled field is bit 7 of its most significant byte: the two lower bytes end at bit 15. -/
theorem join24_bit23 (h m l : Byte) : (join24 h m l)[23] = h[7] := by
  simp [join24]

/-- R16's sign extension with its condition read from the first byte, as R142 reads it. -/
theorem sext_join24 (h m l : Byte) :
    sext (join24 h m l) =
      if h[7] then (join24 h m l).setWidth 32 ||| 0xFF000000#32 else (join24 h m l).setWidth 32 := by
  rw [sext, join24_bit23]

/-! ## Which commands decode to an unpacker (R70, R74, R75) -/

theorem opDecodes_unpkBeU : opDecodes 0x7#4 (fun _ _ => .unpkBeU) :=
  (opDecodes_iff _ _).mpr fun cmd value op rsv => by simpa [op, rsv] using decodeCommand_cases cmd value

theorem opDecodes_unpkBeS : opDecodes 0x8#4 (fun _ _ => .unpkBeS) :=
  (opDecodes_iff _ _).mpr fun cmd value op rsv => by simpa [op, rsv] using decodeCommand_cases cmd value

theorem opDecodes_unpkLeU : opDecodes 0x9#4 (fun _ _ => .unpkLeU) :=
  (opDecodes_iff _ _).mpr fun cmd value op rsv => by simpa [op, rsv] using decodeCommand_cases cmd value

end Sys2Proof.Machine

open Sys2Proof.Machine

/-- Settles O7: the big-endian assembler is the rule's shift and OR. -/
theorem unpkBeUAssemblesBigEndianUnsigned : Obligations.UnpkBeUAssemblesBigEndianUnsigned := by
  refine ⟨fun s => ?_, opDecodes_unpkBeU⟩
  rw [exec_unpkBeU, be24_eq_join24]
  rfl

/-- Settles O8: sign extension is R16's conditional OR, and bit 23 of the assembled field is bit 7 of `IN[0]`. -/
theorem unpkBeSSignExtendsFromBit23 : Obligations.UnpkBeSSignExtendsFromBit23 := by
  refine ⟨fun s => ?_, opDecodes_unpkBeS⟩
  rw [exec_unpkBeS, be24_eq_join24, sext32_eq_sext, sext_join24]
  rfl

/-- Settles O9: as O7, with the first byte least significant. -/
theorem unpkLeUAssemblesLittleEndianUnsigned : Obligations.UnpkLeUAssemblesLittleEndianUnsigned := by
  refine ⟨fun s => ?_, opDecodes_unpkLeU⟩
  rw [exec_unpkLeU, le24_eq_join24]
  rfl

end

section
/-! The response-frame parser (spec/44_response_parser.md): the eleven fields as the rules write them, the order of the two checks, and which commands decode to it. -/

namespace Sys2Proof.Machine

open Sys2Proof.Spec

/-! ## The eleven fields (R160 to R163) -/

/-- The slot map's signed slots are R162's. -/
theorem signed_hw_slots (k : Fin 11) : hw.slots[k].signed = signedSlot k.val := by
  revert k; decide

theorem slot24_hw (b : InBuf) (k : Fin 11) :
    slot24 hw b k =
      join24 (b[1 + 3 * k.val]'(by omega)) (b[2 + 3 * k.val]'(by omega)) (b[3 + 3 * k.val]'(by omega)) :=
  be24_eq_join24 _ _ _

/-- The widening of R162 in R16's form of the sign extension. -/
theorem widen_eq_sext (signed : Bool) (v : Word24) : widen signed v = if signed then sext v else v.setWidth 32 := by
  rw [widen, sext32_eq_sext, zext32]

theorem widen_slot24_hw (b : InBuf) (k : Fin 11) : widen hw.slots[k].signed (slot24 hw b k) = slotValue b k := by
  rw [widen_eq_sext, signed_hw_slots, slot24_hw, slotValue]

theorem decodeFields_hw (b : InBuf) (old : FieldFile) : decodeFields hw b old = Vector.ofFn (slotValue b) := by
  ext1 k hk
  rw [getElem_decodeFields_hw, Vector.getElem_ofFn]
  exact widen_slot24_hw b ⟨k, hk⟩

/-! ## What DEC_RESP leaves (R163) -/

@[simp] theorem hw_header : hw.header = 0x55#8 := rfl

theorem exec_decResp (s : State) : exec .decResp s = .next (decodeResponse hw s) := rfl

theorem decodeResponse_of_header (s : State) (good : s.inp[0] = 0x55#8) :
    decodeResponse hw s = { s with field := Vector.ofFn (slotValue s.inp), status := stOk } := by
  rcases decodeResponse_cases hw s with ⟨-, ends⟩ | ⟨bad, -⟩
  · rw [ends, decodeFields_hw]
    rfl
  · exact absurd good bad

theorem decodeResponse_of_header_ne (s : State) (bad : s.inp[0] ≠ 0x55#8) :
    decodeResponse hw s = { s with status := stBadHeader } := by
  rcases decodeResponse_cases hw s with ⟨good, -⟩ | ⟨-, ends⟩
  · exact absurd good bad
  · exact ends

/-! ## What PARSE leaves (R165) -/

theorem exec_parse (s : State) (addr : Addr) : exec (.parse addr) s = .next (parseResponse hw addr s) := rfl

/-- The two checks in their order; the flag is the first check's alone. -/
theorem parseResponse_eq (addr : Addr) (s : State) :
    parseResponse hw addr s =
      let c := responseCk hw addr s.inp
      if c ≠ s.inp[34] then { s with ck := c, ckOk := false, status := stBadChecksum }
      else if s.inp[0] ≠ 0x55#8 then { s with ck := c, ckOk := true, status := stBadHeader }
      else { s with ck := c, ckOk := true, field := Vector.ofFn (slotValue s.inp), status := stOk } := by
  rcases parseResponse_hw addr s with ⟨differ, ends⟩ | ⟨same, bad, ends⟩ | ⟨same, good, ends⟩
  · simp [ends, differ, State.putCheck, State.putStatus, checkOk]
  · rw [hw_header] at bad
    simp [ends, same, bad, State.putCheck, State.putStatus, checkOk]
  · rw [hw_header] at good
    simp [ends, same, good, decodeFields_hw, State.putCheck, State.putFields, State.putStatus, checkOk]

/-! ## Which commands decode to them (R70, R74, R75) -/

theorem opDecodes_decResp : opDecodes 0xA#4 (fun _ _ => .decResp) :=
  (opDecodes_iff _ _).mpr fun cmd value op rsv => by simpa [op, rsv] using decodeCommand_cases cmd value

theorem opDecodes_parse : opDecodes 0xB#4 (fun cmd _ => .parse (cmdAddr cmd)) :=
  (opDecodes_iff _ _).mpr fun cmd value op rsv => by simpa [op, rsv] using decodeCommand_cases cmd value

end Sys2Proof.Machine

open Sys2Proof.Machine

/-- Settles O10: the header decides between DEC_RESP's two cases, and the decoded fields are R163's slots. -/
theorem decRespChecksHeaderAndExtractsFields : Obligations.DecRespChecksHeaderAndExtractsFields := by
  refine ⟨fun s good => ?_, fun s bad => ?_, opDecodes_decResp⟩
  · rw [exec_decResp, decodeResponse_of_header s good]
  · rw [exec_decResp, decodeResponse_of_header_ne s bad]

/-- Settles O11: PARSE's two checks in their order, the checksum written as the closed formula. -/
theorem parseValidatesThenDecodes : Obligations.ParseValidatesThenDecodes := by
  refine ⟨fun s addr => ?_, opDecodes_parse⟩
  rw [exec_parse, parseResponse_eq, responseCk_hw_eq_ck, apply_ite Host.Outcome.next, apply_ite Host.Outcome.next]

/-- Settles O27: a checksum mismatch takes O11's first branch, in which the header is not looked at. -/
theorem checksumFailureTakesPrecedence : Obligations.ChecksumFailureTakesPrecedence :=
  fun s addr differ _ => ⟨_, (parseValidatesThenDecodes.1 s addr).trans (if_pos differ), rfl, rfl, rfl⟩

end

section
/-! The register read-back validator (spec/45_readback.md): the check as the rule writes it, the value on a match, and which commands decode to it. -/

namespace Sys2Proof.Machine

open Sys2Proof.Spec

/-! ## What VAL_RB leaves (R180) -/

theorem exec_valRb (s : State) (addr : Addr) (reg : Byte) :
    exec (.valRb addr reg) s = .next (validateReadback hw addr reg s) := rfl

/-- The checksum of a read response as the closed formula: the seed's OR never carries, so it is the rule's sum. -/
theorem readbackCk_hw_eq_ck (addr : Addr) (reg lo mid hi : Byte) :
    readbackCk hw addr reg lo mid hi = ck (0x50#8 + addr.setWidth 8) [reg, lo, mid, hi] := by
  rw [readbackCk, cksum_hw_eq_ck, responseSeed_eq_add]

/-- A mismatch leaves `RVAL` as it was; a match assembles it. -/
theorem validateReadback_eq (addr : Addr) (reg : Byte) (s : State) :
    validateReadback hw addr reg s =
      let c := readbackCk hw addr reg s.inp[0] s.inp[1] s.inp[2]
      if c ≠ s.inp[3] then { s with ck := c, ckOk := false, status := stBadChecksum }
      else { s with
        ck := c, ckOk := true, rval := zext32 (le24 s.inp[0] s.inp[1] s.inp[2]), status := stOk } := by
  rcases validateReadback_hw addr s reg with ⟨same, ends⟩ | ⟨differ, ends⟩
  · simp [ends, same, State.putCheck, State.putRval, State.putStatus, checkOk]
  · simp [ends, differ, State.putCheck, State.putStatus, checkOk]

/-! ## Which commands decode to it (R70, R74, R75) -/

theorem opDecodes_valRb : opDecodes 0xC#4 (fun cmd _ => .valRb (cmdAddr cmd) (cmdReg cmd)) :=
  (opDecodes_iff _ _).mpr fun cmd value op rsv => by simpa [op, rsv] using decodeCommand_cases cmd value

end Sys2Proof.Machine

open Sys2Proof.Machine

/-- Settles O12: the two ends of the check, with the checksum as the closed formula and the value as the rule's shift and OR. -/
theorem valRbChecksThenAssemblesReadback : Obligations.ValRbChecksThenAssemblesReadback := by
  refine ⟨fun s addr reg => ?_, opDecodes_valRb⟩
  rw [exec_valRb, validateReadback_eq, readbackCk_hw_eq_ck, le24_eq_join24, apply_ite Host.Outcome.next]
  rfl

end

section
/-! Reset (spec/70_reset_and_hazards.md, R230): the reset event leaves the reset state but for what is the user's, so both have the same result registers. -/

namespace Sys2Proof.Machine

theorem resetBlock_eq (s : State) : resetBlock s = { State.reset with inp := s.inp, pending := s.pending } := rfl

/-- Both ways of being reset are one state, up to IN and what is pending. -/
theorem eq_reset_of_mem (s r : State) (reset : r ∈ [State.reset, resetBlock s]) :
    ∃ inp pending, r = { State.reset with inp := inp, pending := pending } := by
  obtain powerOn | event : r = State.reset ∨ r = resetBlock s := by simpa using reset
  · exact ⟨_, _, powerOn⟩
  · exact ⟨_, _, event.trans (resetBlock_eq s)⟩

end Sys2Proof.Machine

open Sys2Proof.Machine

/-- Settles O40: power-on and the reset event leave the reset state's result registers, whose values are R230's. -/
theorem resetSetsEveryResultRegister : Obligations.ResetSetsEveryResultRegister := by
  intro s r reset
  obtain ⟨inp, pending, rfl⟩ := eq_reset_of_mem s r reset
  exact ⟨rfl, rfl, rfl, rfl, rfl, rfl, rfl⟩

end

section
/-! The legal register values (spec/10_state.md R31, R33): the data registers keep theirs under every update, and every instruction ends with a legal STATUS. -/

namespace Sys2Proof.Machine

variable {s t : State}

/-! ## The data registers alone -/

/-- The part of `Inv` about `OUT`, `FIELD` and `RVAL`: unlike the part about `STATUS`, every single update keeps it. -/
structure LegalData (s : State) : Prop where
  outLen_legal : legalOutLen s.outLen
  out_padded : ∀ k : Fin 6, s.outLen.toNat ≤ k.val → s.out[k] = 0
  field_widened : ∀ k : Fin 11, ∃ v : Word24, s.field[k] = widen hw.slots[k].signed v
  rval_widened : widened s.rval

/-- What `Inv` says of `STATUS`: a written code, and `BAD_CHECKSUM` only with `CK_OK` 0. -/
def LegalStatus (s : State) : Prop := legalStatus s.status ∧ (s.status = stBadChecksum → s.ckOk = false)

theorem inv_iff : Inv s ↔ LegalData s ∧ LegalStatus s :=
  ⟨fun ⟨status, len, pad, field, rval, bad⟩ => ⟨⟨len, pad, field, rval⟩, status, bad⟩,
   fun ⟨⟨len, pad, field, rval⟩, status, bad⟩ => ⟨status, len, pad, field, rval, bad⟩⟩

theorem LegalData.putStatus (h : LegalData s) (c : StatusCode) : LegalData (s.putStatus c) := ⟨h.1, h.2, h.3, h.4⟩

theorem LegalData.putCk (h : LegalData s) (c : Byte) : LegalData (s.putCk c) := ⟨h.1, h.2, h.3, h.4⟩

theorem LegalData.putCheck (h : LegalData s) (c r : Byte) : LegalData (s.putCheck c r) := ⟨h.1, h.2, h.3, h.4⟩

theorem LegalData.putInp (h : LegalData s) (b : InBuf) : LegalData (s.putInp b) := ⟨h.1, h.2, h.3, h.4⟩

theorem LegalData.putPending (h : LegalData s) (p : List Event) : LegalData (s.putPending p) := ⟨h.1, h.2, h.3, h.4⟩

theorem LegalData.putRval (h : LegalData s) {v : Word} (hv : widened v) : LegalData (s.putRval v) :=
  ⟨h.1, h.2, h.3, hv⟩

/-- On this hardware every field register is decoded, so each holds a word widened by its own slot. -/
theorem LegalData.putFields (h : LegalData s) (b : InBuf) (old : FieldFile) :
    LegalData (s.putFields (decodeFields hw b old)) :=
  ⟨h.1, h.2, fun k => ⟨_, getElem_decodeFields_hw b old k.val k.isLt⟩, h.4⟩

/-- Past the bytes of a frame `OUT` is filled with 0. -/
theorem padOut_take_eq_zero (f : List Byte) (n : Nat) (k : Fin 6) (h : n ≤ k.val) : (padOut (f.take n))[k] = 0 := by
  have past : (f.take n).length ≤ k.val := (List.length_take_le n f).trans h
  simp [List.getElem?_eq_none past]

theorem LegalData.putOut (h : LegalData s) (f : List Byte) {n : Nat} (hn : n = 2 ∨ n = 3 ∨ n = 6) :
    LegalData (s.putOut n f) := by
  have fits : (BitVec.ofNat 3 n).toNat = n := by rcases hn with rfl | rfl | rfl <;> rfl
  refine ⟨?_, fun k past => padOut_take_eq_zero f n k ?_, h.3, h.4⟩
  · rcases hn with rfl | rfl | rfl <;> simp [legalOutLen]
  · rwa [State.putOut_outLen, fits] at past

/-! ## Every effect and every event -/

theorem Effect.legalData (e : Effect s t) (h : LegalData s) : LegalData t := by
  cases e with
  | unchanged => exact h
  | illegal => exact h.putStatus _
  | badHeader => exact h.putStatus _
  | request n f hn => exact (h.putOut f (hn.elim .inl (.inr ∘ .inl))).putStatus _
  | write f c => exact ((h.putOut f (.inr (.inr rfl))).putCk c).putStatus _
  | sum c => exact (h.putCk c).putStatus _
  | passed c => exact (h.putCheck c c).putStatus _
  | failed c r => exact (h.putCheck c r).putStatus _
  | passedBadHeader c => exact (h.putCheck c c).putStatus _
  | value v hv => exact (h.putRval hv).putStatus _
  | fields b => exact (h.putFields b _).putStatus _
  | passedValue c v hv => exact ((h.putCheck c c).putRval hv).putStatus _
  | passedFields c b => exact ((h.putCheck c c).putFields b _).putStatus _
  | input b => exact h.putInp b

/-- A code other than `BAD_CHECKSUM` may stand beside any flag. -/
theorem legalStatus_putStatus (s : State) {c : StatusCode} (h : c = stOk ∨ c = stBadHeader ∨ c = stIllegal) :
    LegalStatus (s.putStatus c) := by
  rcases h with rfl | rfl | rfl <;> simp [LegalStatus, legalStatus]

/-- A failed comparison clears the flag that `BAD_CHECKSUM` comes with. -/
theorem legalStatus_failed (s : State) {c r : Byte} (h : c ≠ r) :
    LegalStatus ((s.putCheck c r).putStatus stBadChecksum) := by
  simp [LegalStatus, legalStatus, checkOk, h]

theorem Effect.legalStatus (e : Effect s t) (h : LegalStatus s) : LegalStatus t := by
  cases e with
  | unchanged => exact h
  | input b => exact h
  | failed c r differ => exact legalStatus_failed s differ
  | illegal => exact legalStatus_putStatus _ (.inr (.inr rfl))
  | badHeader => exact legalStatus_putStatus _ (.inr (.inl rfl))
  | passedBadHeader c => exact legalStatus_putStatus _ (.inr (.inl rfl))
  | request | write | sum | passed | value | fields | passedValue | passedFields =>
    exact legalStatus_putStatus _ (.inl rfl)

theorem Effect.inv (e : Effect s t) (h : Inv s) : Inv t :=
  have ⟨data, status⟩ := inv_iff.mp h
  inv_iff.mpr ⟨e.legalData data, e.legalStatus status⟩

/-- What the user drives or presents is no result register. -/
theorem Inv.putPending (h : Inv s) (p : List Event) : Inv (s.putPending p) :=
  have ⟨data, status⟩ := inv_iff.mp h
  inv_iff.mpr ⟨data.putPending p, status⟩

theorem inv_reset : Inv State.reset where
  status_legal := .inl rfl
  outLen_legal := .inl rfl
  out_padded := by decide
  field_widened := fun k => ⟨0, by revert k; decide⟩
  rval_widened := ⟨0, .inl rfl⟩
  badChecksum_ckOk := fun _ => rfl

/-- The reset event leaves the reset state's registers, whatever they were. -/
theorem inv_resetBlock (s : State) : Inv (resetBlock s) :=
  have ⟨data, status⟩ := inv_iff.mp inv_reset
  inv_iff.mpr ⟨⟨data.1, data.2, data.3, data.4⟩, status⟩

/-- A rejected code has one of an instruction's effects. -/
theorem rejected_effect (c : Code) (r : Reject) (s : State) : Effect s (rejected c r s) := by
  rcases rejected_cases s c r with h | ⟨bs, -, h⟩ | h <;> rw [h]
  · exact .illegal
  · exact .input _
  · exact .unchanged

theorem step_keeps_inv (h : Inv s) (hstep : step s = .next t) : Inv t := by
  rcases step_cases s with ⟨-, e⟩ | ⟨rest, -, e⟩ | ⟨b, rest, -, e⟩ | ⟨c, i, rest, -, -, e⟩ | ⟨c, r, rest, -, -, e⟩ <;>
    rw [e] at hstep
  · cases hstep
    exact h
  · cases hstep
    exact inv_resetBlock _
  · cases hstep
    exact (Effect.input b).inv (h.putPending rest)
  · obtain ⟨u, hu, effect⟩ := exec_effect i (s.putPending rest)
    cases hu.symm.trans hstep
    exact effect.inv (h.putPending rest)
  · cases hstep
    exact (rejected_effect c r _).inv (h.putPending rest)

end Sys2Proof.Machine

open Sys2Proof.Machine

/-- Settles O38: every event's effect on the result registers keeps their legal values. -/
theorem stepKeepsTheInvariant : Obligations.StepKeepsTheInvariant := fun _ _ => step_keeps_inv

/-- Settles O39: each register's reset value is one of its legal values. -/
theorem invariantHoldsAtReset : Obligations.InvariantHoldsAtReset := inv_reset

end

section
/-! Decoding and encoding (spec/30_encoding.md sections 1 to 3 and 5): the reserved op codes, both round trips, and the frames the encoders leave in OUT. -/

namespace Sys2Proof.Machine

open Sys2Proof.Spec

/-! ## The reserved op codes (R75) -/

theorem decodeCommand_reserved0 (cmd value : Word) (op : cmdOp cmd = 0x0#4) :
    decodeCommand cmd value = .ok .reserved0 := by simp [decodeCommand, op]

theorem decodeCommand_reservedD (cmd value : Word) (op : cmdOp cmd = 0xD#4) :
    decodeCommand cmd value = .ok .reservedD := by simp [decodeCommand, op]

theorem decodeCommand_reservedE (cmd value : Word) (op : cmdOp cmd = 0xE#4) :
    decodeCommand cmd value = .ok .reservedE := by simp [decodeCommand, op]

theorem decodeCommand_reservedF (cmd value : Word) (op : cmdOp cmd = 0xF#4) :
    decodeCommand cmd value = .ok .reservedF := by simp [decodeCommand, op]

/-! ## The code of an instruction decodes to it -/

/-- An assembled `CMD` word has its op code and `rsv` 0, so it decodes as its op code says. -/
theorem decode_cmdWord {op : BitVec 4} {i : Word → Word → Instr} (h : opDecodes op i) (addr : Addr) (reg : Byte)
    (len : Len) (seed : Byte) (value : Word) :
    decode (.command (cmdWord op addr reg len seed) value) = .ok (i (cmdWord op addr reg len seed) value) :=
  h _ _ (cmdOp_cmdWord op addr reg len seed) (cmdRsv_cmdWord op addr reg len seed)

/-- `0xA0 | addr` is `0xA0 + addr` for a 4-bit address (R80). -/
theorem writeOpcode_or_eq_add (a : Addr) : cmdByte hw.writeOpcode a = 0xA0#8 + a.setWidth 8 := by
  revert a; decide

/-- Two bytes of which the first is a read command byte are a request; the second says which (R76, R86). -/
theorem decodeFrame_read (a : Addr) (b : Byte) :
    decodeFrame [cmdByte hw.readOpcode a, b] =
      if b = hw.fullPacket then .ok (.wireTelemetryRequest a) else .ok (.wireRegisterReadRequest a b) := by
  obtain ⟨opcode, addr⟩ := read_cmdByte_nibbles a
  simp [decodeFrame, opcodeNibble, nibbleAddr, opcode, addr]

theorem decodeFrame_write (a : Addr) (reg lo mid hi ck : Byte) :
    decodeFrame [cmdByte hw.writeOpcode a, reg, lo, mid, hi, ck] = .ok (.wireRegisterWrite a reg lo mid hi ck) := by
  obtain ⟨opcode, addr⟩ := write_cmdByte_nibbles a
  simp [decodeFrame, opcodeNibble, nibbleAddr, opcode, addr]

theorem decode_encode (i : Instr) (wf : i.wf = true) : decode (encode i) = .ok i := by
  cases i with
  | encTreq addr => simpa [encode] using decode_cmdWord opDecodes_encTreq addr 0 0 0 0
  | encRreq addr reg => simpa [encode] using decode_cmdWord opDecodes_encRreq addr reg 0 0 0
  | encWr addr reg value => simpa [encode] using decode_cmdWord opDecodes_encWr addr reg 0 0 value
  | packLe value => exact decode_cmdWord opDecodes_packLe 0 0 0 0 value
  | cksum seed len =>
    have within : len.toNat ≤ 35 := of_decide_eq_true wf
    have fields := decodeCommand_cksum (cmdWord 0x5 0 0 len seed) 0 (cmdOp_cmdWord _ _ _ _ _) (cmdRsv_cmdWord _ _ _ _ _)
    simpa [encode, decode, within] using fields
  | valCk addr => simpa [encode] using decode_cmdWord opDecodes_valCk addr 0 0 0 0
  | parse addr => simpa [encode] using decode_cmdWord opDecodes_parse addr 0 0 0 0
  | valRb addr reg => simpa [encode] using decode_cmdWord opDecodes_valRb addr reg 0 0 0
  | wireTelemetryRequest addr => exact (decodeFrame_read addr _).trans (if_pos rfl)
  | wireRegisterReadRequest addr reg =>
    have other : reg ≠ hw.fullPacket := by simpa [Instr.wf] using wf
    exact (decodeFrame_read addr reg).trans (if_neg other)
  | wireRegisterWrite addr reg lo mid hi ck => exact decodeFrame_write addr reg lo mid hi ck
  | wireRegisterReadResponse lo mid hi ck => rfl
  | wireResponseFrame b => exact decodeFrame_response b (by simpa [Instr.wf] using wf)
  | unpkBeU | unpkBeS | unpkLeU | decResp | reserved0 | reservedD | reservedE | reservedF => rfl

/-! ## What the decoder answers is well formed and has the bytes it was read from -/

/-- The decoder checks `CMD.len` before it answers CKSUM, and answers no wire frame; the other operations need no check. -/
theorem decodeCommand_wf {cmd value : Word} {i : Instr} (h : decodeCommand cmd value = .ok i) : i.wf = true := by
  have answer := decodeCommand_cases cmd value
  rw [h] at answer
  cases i with
  | cksum seed len =>
    obtain ⟨-, -, within, -, rfl⟩ : cmdRsv cmd = 0#2 ∧ cmdOp cmd = 0x5#4 ∧ (cmdLen cmd).toNat ≤ 35 ∧ seed = cmdSeed cmd ∧
        len = cmdLen cmd := by simpa using answer
    exact decide_eq_true within
  | wireRegisterReadRequest => simp at answer
  | wireResponseFrame => simp at answer
  | _ => rfl

theorem toList_inOfList {bs : List Byte} (h : bs.length = 35) : (inOfList bs).toList = bs :=
  List.ext_getElem (by simp [h]) fun k _ hk => by simp [List.getD_eq_getElem?_getD, hk]

theorem getElem_zero_inOfList {bs : List Byte} {x : Byte} (h : bs.head? = some x) : (inOfList bs)[0] = x := by
  cases bs with
  | nil => cases h
  | cons y ys => simpa using h

theorem decodeFrame_wf {bs : List Byte} {i : Instr} (h : decodeFrame bs = .ok i) : i.wf = true := by
  rcases decodeFrame_ok h with ⟨_, -, -, rfl⟩ | ⟨_, _, -, other, -, rfl⟩ | ⟨_, _, _, _, -, rfl⟩ |
    ⟨_, _, _, _, _, _, -, -, rfl⟩ | ⟨-, header, rfl⟩
  · rfl
  · exact bne_iff_ne.mpr other
  · rfl
  · rfl
  · exact beq_iff_eq.mpr (getElem_zero_inOfList header)

/-- A command byte is rebuilt from the nibbles the decoder took it apart into. -/
theorem encode_of_decodeFrame {bs : List Byte} {i : Instr} (h : decodeFrame bs = .ok i) : encode i = .frame bs := by
  rcases decodeFrame_ok h with ⟨b0, opcode, rfl, rfl⟩ | ⟨b0, _, opcode, -, rfl, rfl⟩ | ⟨_, _, _, _, rfl, rfl⟩ |
    ⟨b0, _, _, _, _, _, opcode, rfl, rfl⟩ | ⟨length, -, rfl⟩
  · rw [encode, telemetryRequest, ← opcode, cmdByte_nibbles]
  · rw [encode, readRequest, ← opcode, cmdByte_nibbles]
  · rfl
  · rw [encode, ← opcode, cmdByte_nibbles]
  · rw [encode, toList_inOfList length]

end Sys2Proof.Machine

open Sys2Proof.Machine

/-- Settles O43: by row; an assembled word has its fields, a command byte its nibbles. -/
theorem decodeOfEncodeIsTheInstruction : Obligations.DecodeOfEncodeIsTheInstruction := decode_encode

/-- Settles O44: each answer of the decoder passed that row's check, and the frame's bytes are rebuilt from it. -/
theorem decodeAnswersWellFormedInstructions : Obligations.DecodeAnswersWellFormedInstructions := by
  refine ⟨fun c i h => ?_, fun bs i => encode_of_decodeFrame⟩
  cases c with
  | command cmd value => exact decodeCommand_wf h
  | frame bs => exact decodeFrame_wf h

/-- Settles O13: the four meanings are the illegal command's, and their op codes are looked at before `rsv`. -/
theorem reservedOpCodesWriteOnlyIllegal : Obligations.ReservedOpCodesWriteOnlyIllegal :=
  ⟨fun _ => ⟨rfl, rfl, rfl, rfl⟩,
   fun cmd value => ⟨decodeCommand_reserved0 cmd value, decodeCommand_reservedD cmd value,
     decodeCommand_reservedE cmd value, decodeCommand_reservedF cmd value⟩⟩

/-- Settles O20: the sum is `responseSeed_eq_add`, the nibbles those of both command bytes. -/
theorem commandByteKeepsTheAddress : Obligations.CommandByteKeepsTheAddress :=
  fun a => ⟨responseSeed_eq_add a, (read_cmdByte_nibbles a).2, writeOpcode_or_eq_add a, (write_cmdByte_nibbles a).2⟩

/-- Settles O45: by evaluating the decoder on the eight codes. -/
theorem writtenOutWordsDecode : Obligations.WrittenOutWordsDecode := ⟨rfl, rfl, rfl, rfl, rfl, rfl, rfl, rfl⟩

/-- Settles O46: both build `readRequest` for id 0xAA, which the decoder reads as the telemetry request. -/
theorem telemetryRequestIsReadRequestForFullPacket : Obligations.TelemetryRequestIsReadRequestForFullPacket :=
  fun _ a => ⟨rfl, rfl, (decodeFrame_read a 0xAA#8).trans (if_pos rfl)⟩

/-- Settles O47: the operations of O1 to O3 leave the frames' bytes, padded past their length. -/
theorem encodersProduceTheWireFrames : Obligations.EncodersProduceTheWireFrames :=
  fun s a r value => ⟨_, _, _, encTreqBuildsTelemetryRequest.1 s a, rfl, encRreqBuildsRegisterReadRequest.1 s a r, rfl,
    encWrBuildsRegisterWriteFrame.1 s a r value, rfl⟩

end

section
/-! One step (spec/30_encoding.md section 2, spec/60_exceptions.md, spec/70_reset_and_hazards.md section 1): which commands end ILLEGAL, which parts of a command matter, and what the other events do. -/

namespace Sys2Proof.Machine

open Sys2Proof.Spec

variable {s : State} {rest : List Event}

/-! ## The presented code -/

theorem step_of_decode_ok {c : Code} {i : Instr} (h : s.pending = .present c :: rest) (hd : decode c = .ok i) :
    step s = exec i (s.putPending rest) := by
  simp [step, h, hd]

theorem step_of_decode_error {c : Code} {r : Reject} (h : s.pending = .present c :: rest) (hd : decode c = .error r) :
    step s = .next (rejected c r (s.putPending rest)) := by
  simp [step, h, hd]

/-- What a presented command does, the queue left out. -/
def runCommand (cmd value : Word) (s : State) : Host.Outcome State Fault Refusal :=
  match decodeCommand cmd value with
  | .ok i => exec i s
  | .error _ => .next s.illegal

theorem runCommand_of_ok {cmd value : Word} {i : Instr} (h : decodeCommand cmd value = .ok i) (s : State) :
    runCommand cmd value s = exec i s := by
  rw [runCommand, h]

theorem runCommand_of_error {cmd value : Word} {r : Reject} (h : decodeCommand cmd value = .error r) (s : State) :
    runCommand cmd value s = .next (s.putStatus stIllegal) := by
  rw [runCommand, h]
  rfl

theorem step_command {cmd value : Word} (h : s.pending = .present (.command cmd value) :: rest) :
    step s = runCommand cmd value (s.putPending rest) := by
  cases hd : decodeCommand cmd value with
  | ok i => rw [runCommand_of_ok hd, step_of_decode_ok h hd]
  | error r =>
    rw [runCommand_of_error hd, step_of_decode_error h hd]
    rfl

/-! ## The illegal commands (R75) -/

/-- The rows of the four reserved op codes. -/
def reservedRows : List Instr := [.reserved0, .reservedD, .reservedE, .reservedF]

theorem exec_of_mem_reservedRows {i : Instr} (h : i ∈ reservedRows) (s : State) :
    exec i s = .next (s.putStatus stIllegal) := by
  obtain rfl | rfl | rfl | rfl : i = .reserved0 ∨ i = .reservedD ∨ i = .reservedE ∨ i = .reservedF := by
    simpa [reservedRows] using h
  all_goals rfl

/-- The illegal commands in the decoder's own names for the fields of CMD. -/
theorem illegalCmd_iff (cmd : Word) :
    illegalCmd cmd ↔ cmdOp cmd = 0x0#4 ∨ cmdOp cmd = 0xD#4 ∨ cmdOp cmd = 0xE#4 ∨ cmdOp cmd = 0xF#4 ∨
      cmdRsv cmd ≠ 0#2 ∨ (cmdOp cmd = 0x5#4 ∧ 35 < (cmdLen cmd).toNat) := Iff.rfl

/-- An illegal command is one that decodes to nothing but possibly a reserved row. -/
theorem illegalCmd_iff_decodeCommand (cmd value : Word) :
    illegalCmd cmd ↔ ∀ i, decodeCommand cmd value = .ok i → i ∈ reservedRows := by
  rw [illegalCmd_iff]
  rcases decodeCommand_cases cmd value with ⟨op, d⟩ | ⟨op, d⟩ | ⟨op, d⟩ | ⟨op, d⟩ | ⟨rsv, d⟩ | ⟨rsv, ⟨op, d⟩ | ⟨op, d⟩ |
    ⟨op, d⟩ | ⟨op, d⟩ | ⟨op, len, d⟩ | ⟨op, len, d⟩ | ⟨op, d⟩ | ⟨op, d⟩ | ⟨op, d⟩ | ⟨op, d⟩ | ⟨op, d⟩ | ⟨op, d⟩ | ⟨op, d⟩⟩ <;>
    simp [*, reservedRows]

/-- The command ports carry no wire frame. -/
theorem decodeCommand_not_wire {cmd value : Word} {i : Instr} (h : decodeCommand cmd value = .ok i) :
    isWireFrame i = false := by
  have answer := decodeCommand_cases cmd value
  rw [h] at answer
  cases i with
  | wireTelemetryRequest | wireRegisterReadRequest | wireRegisterWrite | wireRegisterReadResponse | wireResponseFrame =>
    simp at answer
  | _ => rfl

theorem runCommand_of_illegal {cmd : Word} (value : Word) (h : illegalCmd cmd) (s : State) :
    runCommand cmd value s = .next (s.putStatus stIllegal) := by
  cases hd : decodeCommand cmd value with
  | ok i => rw [runCommand_of_ok hd, exec_of_mem_reservedRows ((illegalCmd_iff_decodeCommand cmd value).mp h i hd)]
  | error r => exact runCommand_of_error hd s

/-- A well-formed operation ends with one of the other codes. -/
theorem exec_status_ne_illegal {i : Instr} (wf : i.wf = true) (operation : isWireFrame i = false)
    (unreserved : i ∉ reservedRows) (s : State) : ∃ t, exec i s = .next t ∧ t.status ≠ stIllegal := by
  cases i with
  | cksum seed len =>
    have within : len.toNat ≤ 35 := of_decide_eq_true wf
    exact ⟨_, rfl, by simp [checksumOf_of_le s seed len within]⟩
  | valCk addr =>
    refine ⟨_, rfl, ?_⟩
    rcases validateResponse_hw addr s with ⟨-, h⟩ | ⟨-, h⟩ <;> simp [h]
  | decResp =>
    refine ⟨_, rfl, ?_⟩
    rcases decodeResponse_cases hw s with ⟨-, h⟩ | ⟨-, h⟩ <;> simp [h]
  | parse addr =>
    refine ⟨_, rfl, ?_⟩
    rcases parseResponse_hw addr s with ⟨-, h⟩ | ⟨-, -, h⟩ | ⟨-, -, h⟩ <;> simp [h]
  | valRb addr reg =>
    refine ⟨_, rfl, ?_⟩
    rcases validateReadback_hw addr s reg with ⟨-, h⟩ | ⟨-, h⟩ <;> simp [h]
  | encTreq | encRreq | encWr | packLe | unpkBeU | unpkBeS | unpkLeU =>
    exact ⟨_, rfl, (by decide : stOk ≠ stIllegal)⟩
  | reserved0 | reservedD | reservedE | reservedF => exact absurd (by decide) unreserved
  | wireTelemetryRequest | wireRegisterReadRequest | wireRegisterWrite | wireRegisterReadResponse | wireResponseFrame =>
    cases operation

/-! ## The parts of a command that are read (R82) -/

theorem opCode_cases (op : BitVec 4) :
    op = 0x0#4 ∨ op = 0x1#4 ∨ op = 0x2#4 ∨ op = 0x3#4 ∨ op = 0x4#4 ∨ op = 0x5#4 ∨ op = 0x6#4 ∨ op = 0x7#4 ∨ op = 0x8#4 ∨
      op = 0x9#4 ∨ op = 0xA#4 ∨ op = 0xB#4 ∨ op = 0xC#4 ∨ op = 0xD#4 ∨ op = 0xE#4 ∨ op = 0xF#4 := by
  revert op; decide

/-- Two `CMD` words agree on the op code, on `rsv` and on the fields the op code's operation reads. -/
structure SameReadFields (cmd cmd' : Word) : Prop where
  op : cmdOp cmd = cmdOp cmd'
  rsv : cmdRsv cmd = cmdRsv cmd'
  addr : (cmdOp cmd).toNat ∈ [1, 2, 3, 6, 0xB, 0xC] → cmdAddr cmd = cmdAddr cmd'
  reg : (cmdOp cmd).toNat ∈ [2, 3, 0xC] → cmdReg cmd = cmdReg cmd'
  lenSeed : (cmdOp cmd).toNat = 5 → cmdLen cmd = cmdLen cmd' ∧ cmdSeed cmd = cmdSeed cmd'

/-- In each op code's branch the decoder looks at the fields of that operation only. -/
theorem SameReadFields.decodeCommand_eq {cmd cmd' : Word} (h : SameReadFields cmd cmd') (value : Word) :
    decodeCommand cmd value = decodeCommand cmd' value := by
  obtain ⟨sameOp, sameRsv, addr, reg, lenSeed⟩ := h
  unfold decodeCommand
  rw [← sameOp, ← sameRsv]
  rcases opCode_cases (cmdOp cmd) with op | op | op | op | op | op | op | op | op | op | op | op | op | op | op | op <;>
    simp [op] at addr reg lenSeed ⊢ <;> simp [*]

/-- The other op codes' branches do not look at `VALUE`. -/
theorem decodeCommand_value {cmd : Word} (h3 : cmdOp cmd ≠ 0x3#4) (h4 : cmdOp cmd ≠ 0x4#4) (value value' : Word) :
    decodeCommand cmd value = decodeCommand cmd value' := by
  unfold decodeCommand
  rcases opCode_cases (cmdOp cmd) with op | op | op | op | op | op | op | op | op | op | op | op | op | op | op | op <;>
    simp [op] at h3 h4 ⊢

theorem exec_encWr_value {value value' : Word} (h : value24 value = value24 value') (a : Addr) (r : Byte) (s : State) :
    exec (.encWr a r value) s = exec (.encWr a r value') s := by
  rw [exec_encWr, exec_encWr, encodeWrite_eq, encodeWrite_eq, h]

theorem exec_packLe_value {value value' : Word} (h : value24 value = value24 value') (s : State) :
    exec (.packLe value) s = exec (.packLe value') s := by
  rw [exec_packLe, exec_packLe, h]

/-- Where `rsv` is not 0 the command is rejected before its operands are looked at. -/
theorem runCommand_of_rsv {cmd : Word} (rsv : cmdRsv cmd ≠ 0#2) (value : Word) (s : State) :
    runCommand cmd value s = .next (s.putStatus stIllegal) :=
  runCommand_of_illegal value ((illegalCmd_iff cmd).mpr (.inr (.inr (.inr (.inr (.inl rsv)))))) s

/-- Only ENC_WR and PACK_LE read `VALUE`, and only its low 24 bits. -/
theorem runCommand_value {cmd value value' : Word}
    (h : (cmdOp cmd).toNat ∈ [3, 4] → value24 value = value24 value') (s : State) :
    runCommand cmd value s = runCommand cmd value' s := by
  by_cases rsv : cmdRsv cmd = 0#2
  case neg => rw [runCommand_of_rsv rsv, runCommand_of_rsv rsv]
  by_cases h3 : cmdOp cmd = 0x3#4
  · rw [runCommand_of_ok (opDecodes_encWr cmd value h3 rsv), runCommand_of_ok (opDecodes_encWr cmd value' h3 rsv)]
    exact exec_encWr_value (h (by simp [h3])) _ _ s
  by_cases h4 : cmdOp cmd = 0x4#4
  · rw [runCommand_of_ok (opDecodes_packLe cmd value h4 rsv), runCommand_of_ok (opDecodes_packLe cmd value' h4 rsv)]
    exact exec_packLe_value (h (by simp [h4])) s
  · rw [runCommand, runCommand, decodeCommand_value h3 h4 value value']

/-! ## STATUS is written, never read -/

/-- CKSUM ends both its branches by writing STATUS. -/
theorem checksumOf_with_status (s : State) (c : StatusCode) (seed : Byte) (len : Len) :
    checksumOf hw seed len { s with status := c } = checksumOf hw seed len s := by
  unfold checksumOf
  split <;> rfl

theorem exec_with_status {i : Instr} (operation : isWireFrame i = false) (s : State) (c : StatusCode) :
    exec i { s with status := c } = exec i s := by
  cases i with
  | cksum seed len => exact congrArg Host.Outcome.next (checksumOf_with_status s c seed len)
  | wireTelemetryRequest | wireRegisterReadRequest | wireRegisterWrite | wireRegisterReadResponse | wireResponseFrame =>
    cases operation
  | _ => rfl

theorem step_next (s : State) : ∃ t, step s = .next t := by
  rcases step_cases s with ⟨-, e⟩ | ⟨_, -, e⟩ | ⟨_, _, -, e⟩ | ⟨_, i, rest, -, -, e⟩ | ⟨_, _, _, -, -, e⟩ <;> rw [e]
  case inr.inr.inr.inl =>
    obtain ⟨t, ht, -⟩ := exec_effect i (s.putPending rest)
    exact ⟨t, ht⟩
  all_goals exact ⟨_, rfl⟩

/-! ## The other events -/

theorem step_of_driveIn {b : InBuf} (h : s.pending = .driveIn b :: rest) :
    step s = .next { s with inp := b, pending := rest } := by
  rw [step, h]
  rfl

theorem step_of_reset (h : s.pending = .reset :: rest) :
    step s = .next { State.reset with inp := s.inp, pending := rest } := by
  rw [step, h]
  rfl

/-- A frame rejected for its header has the port's length, so it stands in IN whole. -/
theorem step_of_badHeader {bs : List Byte} (h : s.pending = .present (.frame bs) :: rest)
    (hd : decodeFrame bs = .error .badHeader) :
    ∃ t, step s = .next t ∧ t = { s with inp := t.inp, pending := rest } ∧ t.inp.toList = bs :=
  ⟨_, step_of_decode_error h hd, rfl, toList_placeAt _ (decodeFrame_badHeader hd)⟩

theorem rejected_frame {r : Reject} (h : r ≠ .badHeader) (bs : List Byte) (s : State) : rejected (.frame bs) r s = s := by
  cases r with
  | badHeader => exact absurd rfl h
  | _ => rfl

end Sys2Proof.Machine

open Sys2Proof Sys2Proof.Machine

/-- Settles O41: the decoder's answer is run on the rest of the queue. -/
theorem stepRunsTheDecodedInstruction : Obligations.StepRunsTheDecodedInstruction :=
  fun _ _ _ _ => step_of_decode_ok

/-- Settles O14: an illegal command is rejected or runs a reserved row; any other decodes to a row that writes another code. -/
theorem exactlyTheIllegalCommandsEndIllegal : Obligations.ExactlyTheIllegalCommandsEndIllegal := by
  intro s cmd value rest h
  refine ⟨fun illegal => (step_command h).trans (runCommand_of_illegal value illegal _), fun legal => ?_⟩
  rw [illegalCmd_iff_decodeCommand cmd value] at legal
  push Not at legal
  obtain ⟨i, hd, unreserved⟩ := legal
  have runs := step_of_decode_ok h hd
  obtain ⟨t, ht, status⟩ :=
    exec_status_ne_illegal (decodeCommand_wf hd) (decodeCommand_not_wire hd) unreserved (s.putPending rest)
  exact ⟨i, t, hd, decodeCommand_wf hd, runs, runs.trans ht, status⟩

/-- Settles O15: the decoder reads the same fields of both words, and the operation the same 24 bits of `VALUE`. -/
theorem unreadOperandsHaveNoEffect : Obligations.UnreadOperandsHaveNoEffect := by
  intro s cmd cmd' value value' rest op rsv addr reg lenSeed val
  have fields : SameReadFields cmd cmd' := ⟨op, rsv, addr, reg, lenSeed⟩
  rw [step_command rfl, step_command rfl, runCommand_value val, runCommand, fields.decodeCommand_eq, runCommand]
  rfl

/-- Settles O37: every event has a next state, and an operation's STATUS write covers the earlier code. -/
theorem noErrorStopsTheBlock : Obligations.NoErrorStopsTheBlock :=
  ⟨step_next, fun _ s c operation => exec_with_status operation s c⟩

/-- Settles O42: one step lemma for each event; what a frame can be rejected for is `decodeFrame_error`. -/
theorem stepTakesTheOtherEvents : Obligations.StepTakesTheOtherEvents := by
  refine ⟨fun s h => ?_, fun _ _ _ => step_of_driveIn, fun _ _ => step_of_reset,
    fun _ _ _ _ _ => step_of_decode_error, fun _ _ _ => step_of_badHeader, fun s bs r rest h hd other => ⟨?_, ?_⟩⟩
  · rw [step, h]
  · exact (decodeFrame_error hd).resolve_left other
  · rw [step_of_decode_error h hd, rejected_frame other]
    rfl

end

section
/-! What the checksum detects (spec/00_scope.md section 5, spec/41_encoders.md, spec/42_checksum.md): it is the inverted sum, so a changed byte or another seed shows and a reordering does not. -/

namespace Sys2Proof.Machine

open Sys2Proof.Spec

/-! ## The sum of the bytes -/

theorem cksum_perm {b b' : List Byte} (h : b.Perm b') (cfg : Config) (seed : Byte) :
    cksum cfg seed b' = cksum cfg seed b := by
  rw [cksum_eq_sum, cksum_eq_sum, h.sum_eq]

/-- A list that ends in its own checksum from seed 0 sums to 0xFF (R105). -/
theorem sum_append_ck (b : List Byte) : (b ++ [ck 0 b]).sum = 0xFF#8 := by
  have inverted : ck 0 b = b.sum ^^^ 0xFF#8 := by
    rw [← cksum_hw_eq_ck, cksum_eq_sum]
    simp [hw]
  rw [List.sum_append, List.sum_singleton, inverted, add_xor_ff]

theorem sum_toNat_mod (b : List Byte) : (b.map BitVec.toNat).sum % 256 = b.sum.toNat := by
  rw [sum_eq_ofNat_sum_toNat, BitVec.toNat_ofNat]

/-- The six bytes fill `OUT`. -/
theorem toList_encodeWrite_out (s : State) (addr : Addr) (reg : Byte) (value : Word) :
    (encodeWrite hw addr reg value s).out.toList =
      writeBody hw addr reg (value24 value) ++ [ck 0 (writeBody hw addr reg (value24 value))] := by
  rw [encodeWrite_hw]
  rfl

/-- Changing one byte of a list changes its sum. -/
theorem sum_set_eq_iff {b : List Byte} {j : Nat} (h : j < b.length) (x : Byte) : (b.set j x).sum = b.sum ↔ x = b[j] := by
  induction b generalizing j with
  | nil => cases h
  | cons y ys ih =>
    cases j with
    | zero => simp
    | succ j => simpa [BitVec.add_right_inj] using ih (Nat.lt_of_succ_lt_succ h)

/-! ## The checksum of a response frame (R122) -/

theorem responseCk_inj (a a' : Addr) (b b' : InBuf) :
    responseCk hw a b = responseCk hw a' b' ↔
      responseSeed hw a + (b.toList.take 34).sum = responseSeed hw a' + (b'.toList.take 34).sum := by
  rw [responseCk_hw, responseCk_hw, cksum_inj]

theorem responseCk_set (a : Addr) (b : InBuf) (j : Nat) (h : j < 34) (x : Byte) :
    responseCk hw a (b.set j x) = responseCk hw a b ↔ x = b[j] := by
  have inside : j < (b.toList.take 34).length := by simpa using h
  rw [responseCk_inj, BitVec.add_right_inj, Vector.toList_set, List.take_set, sum_set_eq_iff inside,
    List.getElem_take, Vector.getElem_toList]

/-- The checksum byte itself is not summed. -/
theorem responseCk_set_last (a : Addr) (b : InBuf) (x : Byte) : responseCk hw a (b.set 34 x) = responseCk hw a b := by
  have outside : (b.toList.take 34).length ≤ 34 := List.length_take_le 34 _
  rw [responseCk_inj, Vector.toList_set, List.take_set, List.set_eq_of_length_le outside]

/-- After one byte of a frame that passes is changed, checksum and last byte differ: exactly one of the two moved. -/
theorem responseCk_set_ne {a : Addr} {b : InBuf} (pass : responseCk hw a b = b[34]) (j : Fin 35) {x : Byte} (other : x ≠ b[j]) :
    responseCk hw a (b.set j x) ≠ (b.set j x)[34] := by
  by_cases h : j.val < 34
  · have same : (b.set j x)[34] = b[34] := Vector.getElem_set_ne _ _ (by omega)
    rw [same, ← pass, ne_eq, responseCk_set a b j.val h x]
    exact other
  · obtain rfl : j = 34 := by omega
    change responseCk hw a (b.set 34 x) ≠ (b.set 34 x)[34]
    rw [responseCk_set_last, pass]
    simpa using other.symm

theorem responseCk_perm {b b' : InBuf} (h : (b.toList.take 34).Perm (b'.toList.take 34)) (a : Addr) :
    responseCk hw a b = responseCk hw a b' := by
  rw [responseCk_hw, responseCk_hw, cksum_perm h.symm]

/-- The seed of the next address is one more, so the inverted sum is one less. -/
theorem responseSeed_succ (a : Addr) (h : a.toNat < 15) : responseSeed hw (a + 1) = responseSeed hw a + 1 := by
  revert a; decide

theorem xor_ff_succ (x : Byte) : (x + 1) ^^^ 0xFF#8 = (x ^^^ 0xFF#8) - 1 := by
  revert x; decide

theorem responseCk_succ (a : Addr) (h : a.toNat < 15) (b : InBuf) :
    responseCk hw (a + 1) b = responseCk hw a b - 1 := by
  have next : responseSeed hw a + 1 + (b.toList.take 34).sum = responseSeed hw a + (b.toList.take 34).sum + 1 := by
    ac_rfl
  rw [responseCk_hw, responseCk_hw, cksum_eq_sum, cksum_eq_sum, responseSeed_succ a h, next]
  exact xor_ff_succ _

/-! ## What VAL_CK leaves of it -/

@[simp] theorem validateResponse_ck (a : Addr) (s : State) : (validateResponse hw a s).ck = responseCk hw a s.inp := by
  rw [validateResponse_eq]

theorem validateResponse_passes_iff (a : Addr) (s : State) :
    (validateResponse hw a s).ckOk = true ↔ responseCk hw a s.inp = s.inp[34] := by
  rw [validateResponse_ckOk_iff, validateResponse_ck]

theorem validateResponse_of_ne {a : Addr} {s : State} (h : responseCk hw a s.inp ≠ s.inp[34]) :
    (validateResponse hw a s).ckOk = false ∧ (validateResponse hw a s).status = stBadChecksum := by
  simp [validateResponse_eq, h]

end Sys2Proof.Machine

open Sys2Proof.Machine

/-- Settles O17: the closed formula is `cksum_hw_eq_ck`, and a sum does not depend on the order. -/
theorem checksumIsTheOrderFreeSum : Obligations.ChecksumIsTheOrderFreeSum :=
  fun seed b => ⟨cksum_hw_eq_ck seed b, fun _ h => cksum_perm h hw seed⟩

/-- Settles O21: the six bytes are the body and its own checksum. -/
theorem writeFrameChecksItself : Obligations.WriteFrameChecksItself := by
  intro s t addr reg value h
  cases (exec_encWr s addr reg value).symm.trans h
  rw [sum_toNat_mod, toList_encodeWrite_out, sum_append_ck]
  rfl

/-- Settles O22: a changed byte moves either the sum or the byte it is compared with, and never both. -/
theorem singleByteErrorIsDetected : Obligations.SingleByteErrorIsDetected := by
  intro s t addr j x h pass other
  cases (exec_valCk s addr).symm.trans h
  have differ := responseCk_set_ne ((validateResponse_passes_iff addr s).mp pass) j other
  exact ⟨_, exec_valCk _ _, validateResponse_of_ne differ⟩

/-- Settles O23: the same sum and the same last byte make the same comparison. -/
theorem reorderedFrameIsNotDetected : Obligations.ReorderedFrameIsNotDetected := by
  intro s b addr perm last
  refine ⟨_, exec_valCk s addr, ?_⟩
  rw [exec_valCk, validateResponse_eq, validateResponse_eq]
  simp only [responseCk_perm perm, last]

/-- Settles O24: two addresses that pass have the same seed, and the next address's seed is one more. -/
theorem seedBindsAFrameToOneAddress : Obligations.SeedBindsAFrameToOneAddress := by
  refine ⟨fun s t t' a a' h h' pass pass' => ?_, fun s t t' a below h h' => ?_⟩
  · cases (exec_valCk s a).symm.trans h
    cases (exec_valCk s a').symm.trans h'
    have same := ((validateResponse_passes_iff a s).mp pass).trans ((validateResponse_passes_iff a' s).mp pass').symm
    exact responseSeed_inj a a' (BitVec.add_left_inj _ |>.mp ((responseCk_inj a a' _ _).mp same))
  · cases (exec_valCk s a).symm.trans h
    cases (exec_valCk s (a + 1)).symm.trans h'
    rw [validateResponse_ck, validateResponse_ck, responseCk_succ a below]

end

section
/-! The unpackers compared (spec/43_field_unpack.md): where the signed and the unsigned reading differ, and the two round trips. -/

namespace Sys2Proof.Machine

open Sys2Proof.Spec

/-! ## Sign extension against zero extension -/

/-- Above a 24-bit value the mask's bits are free, so the OR of R16 is a sum. -/
theorem or_signMask_eq_add (v : Word24) : v.setWidth 32 ||| 0xFF000000#32 = v.setWidth 32 + 0xFF000000#32 := by
  refine (BitVec.add_eq_or_of_and_eq_zero _ _ ?_).symm
  ext i hi
  rw [BitVec.getElem_and, BitVec.getElem_setWidth, getElem_signMask, BitVec.getElem_zero]
  by_cases low : i < 24
  · have noMask : ¬ 24 ≤ i := by omega
    simp [noMask]
  · simp [BitVec.getLsbD_of_ge v i (by omega)]

theorem sext32_of_nonneg {v : Word24} (h : v[23] = false) : sext32 v = zext32 v := by
  simp [sext32_eq_sext, sext, h, zext32]

theorem sext32_of_neg {v : Word24} (h : v[23] = true) : sext32 v = zext32 v + 0xFF000000#32 := by
  simp [sext32_eq_sext, sext, h, zext32, or_signMask_eq_add]

/-- The sign of a big-endian field is the top bit of its first byte. -/
theorem be24_bit23 (h m l : Byte) : (be24 h m l)[23] = decide (0x80 ≤ h.toNat) := by
  have top : ∀ x : Byte, x[7] = decide (0x80 ≤ x.toNat) := by decide
  rw [be24_eq_join24, join24_bit23, top]

/-! ## The bytes of a widened value -/

/-- Widening adds bits above the three bytes. -/
theorem extractLsb'_zext32 (v : Word24) (j : Nat) (h : j < 3) : (zext32 v).extractLsb' (8 * j) 8 = byteOf v j := by
  ext i hi
  have below24 : 8 * j + i < 32 := by omega
  simp [zext32, byteOf, below24]

theorem byteOf_be24 (h m l : Byte) :
    byteOf (be24 h m l) 2 = h ∧ byteOf (be24 h m l) 1 = m ∧ byteOf (be24 h m l) 0 = l := by
  simp [be24_eq_le24]

end Sys2Proof.Machine

open Sys2Proof.Machine

/-- Settles O25: below 0x80 both extensions add zeros, from 0x80 on they differ by the mask, which is not 0. -/
theorem signedAndUnsignedReadingsCompared : Obligations.SignedAndUnsignedReadingsCompared := by
  intro s t u ht hu
  cases (exec_unpkBeS s).symm.trans ht
  cases (exec_unpkBeU s).symm.trans hu
  have sign := be24_bit23 s.inp[0] s.inp[1] s.inp[2]
  by_cases neg : 0x80 ≤ s.inp[0].toNat
  · have differ := sext32_of_neg (sign.trans (decide_eq_true neg))
    simp [differ, neg]
  · have same := sext32_of_nonneg (sign.trans (decide_eq_false neg))
    simp [same, neg, Nat.lt_of_not_le neg]

/-- Settles O26: PACK_LE's bytes are the slices that O4 unpacks; a widened field still has its three bytes. -/
theorem packAndUnpackRoundTrip : Obligations.PackAndUnpackRoundTrip := by
  refine ⟨fun s t u value h h0 h1 h2 => ?_, fun s t h => ?_⟩
  · obtain ⟨packs, -, unpacks⟩ := packLeSplitsValueLowByteFirst
    cases (packs s value).symm.trans h
    exact unpacks u value h0 h1 h2
  · cases (exec_unpkBeU s).symm.trans h
    obtain ⟨first, second, third⟩ := byteOf_be24 s.inp[0] s.inp[1] s.inp[2]
    exact ⟨(extractLsb'_zext32 _ 2 (by decide)).trans first, (extractLsb'_zext32 _ 1 (by decide)).trans second,
      (extractLsb'_zext32 _ 0 (by decide)).trans third⟩

end

section
/-! The parser's round trip (spec/44_response_parser.md sections 3 and 4), over every configuration record that fits its frame: where each slot's bytes stand in a well-formed frame, and what PARSE finds there. -/

namespace Sys2Proof.Machine

open Sys2Proof.Spec

/-! ## The three bytes of a slot -/

@[simp] theorem length_wireBytes (order : ByteOrder) (v : Word24) : (wireBytes order v).length = 3 := by
  cases order <;> rfl

/-- Assembling in the order of sending gives the value back (R15, R52). -/
theorem assemble_wireBytes (order : ByteOrder) (v : Word24) :
    assemble order ((wireBytes order v).getD 0 0) ((wireBytes order v).getD 1 0) ((wireBytes order v).getD 2 0) = v := by
  cases order with
  | big => exact be24_byteOf v
  | little => exact le24_byteOf v

theorem length_flatMap_of_length_three {α : Type} {f : α → List Byte} (three : ∀ a, (f a).length = 3) (l : List α) :
    (l.flatMap f).length = 3 * l.length := by
  simp [List.length_flatMap, three, Nat.mul_comm]

/-- In a list of 3-byte pieces, byte `j` of piece `k` stands at `3 * k + j`. -/
theorem getD_flatMap_of_length_three {α : Type} {f : α → List Byte} (three : ∀ a, (f a).length = 3) (l : List α) {k j : Nat}
    (hk : k < l.length) (hj : j < 3) : (l.flatMap f).getD (3 * k + j) 0 = (f l[k]).getD j 0 := by
  induction l generalizing k with
  | nil => cases hk
  | cons a as ih =>
    cases k with
    | zero =>
      have first : 3 * 0 + j < (f a).length := by rw [three]; omega
      rw [List.flatMap_cons, List.getD_append _ _ _ _ first, Nat.mul_zero, Nat.zero_add]
      rfl
    | succ k =>
      have later : 3 * (k + 1) + j - (f a).length = 3 * k + j := by rw [three]; omega
      have past : (f a).length ≤ 3 * (k + 1) + j := by rw [three]; omega
      rw [List.flatMap_cons, List.getD_append_right _ _ _ _ past, later, ih (Nat.lt_of_succ_lt_succ hk)]
      rfl

/-! ## A well-formed frame (R79, R160) -/

theorem take_toList_inOfList {bs : List Byte} {n : Nat} (port : n ≤ 35) (h : n ≤ bs.length) :
    (inOfList bs).toList.take n = bs.take n := by
  refine List.ext_getElem (by simp [port, h]) fun k hk _ => ?_
  have inside : k < bs.length := by simp at hk; omega
  simp [List.getD_eq_getElem?_getD, inside]

section
variable {cfg : Config} (addr : Addr) (u : Vector Word24 11)

theorem length_responseBody (fields : cfg.nFields ≤ 11) : (responseBody cfg u).length = 1 + 3 * cfg.nFields := by
  have sent : (u.toList.take cfg.nFields).length = cfg.nFields := by simp [fields]
  rw [responseBody, List.length_cons, length_flatMap_of_length_three (length_wireBytes _), sent, Nat.add_comm]

theorem responseFrame_header : (responseFrame cfg addr u)[0] = cfg.header := by
  simp [responseFrame, responseBody]

theorem responseFrame_body (fields : cfg.nFields ≤ 11) :
    (responseFrame cfg addr u).toList.take (1 + 3 * cfg.nFields) = responseBody cfg u := by
  have length := length_responseBody u fields
  rw [responseFrame, take_toList_inOfList (by omega) (by simp [length]), List.take_left' length]

theorem responseFrame_last (fields : cfg.nFields ≤ 11) :
    trailingByte (1 + 3 * cfg.nFields + 1) (responseFrame cfg addr u) = cksum cfg (responseSeed cfg addr) (responseBody cfg u) := by
  have length := length_responseBody u fields
  rw [trailingByte_succ _ (by omega), responseFrame, getElem_inOfList, List.getD_append_right _ _ _ _ length.le, length]
  simp

/-- The frame passes its own check. -/
theorem responseCk_responseFrame (fits : cfg.fits) :
    responseCk cfg addr (responseFrame cfg addr u) = trailingByte cfg.respLen (responseFrame cfg addr u) := by
  obtain ⟨fields, respLen, -⟩ := fits
  rw [responseCk, respLen, Nat.add_sub_cancel, responseFrame_body addr u fields, responseFrame_last addr u fields]

/-- Byte `j` of slot `k` follows the header and the `3 * k` bytes before it. -/
theorem responseFrame_slotByte (fields : cfg.nFields ≤ 11) {k j i : Nat} (hk : k < cfg.nFields) (hj : j < 3)
    (hi : i = 3 * k + j + 1) :
    (responseFrame cfg addr u)[i]'(by omega) = (wireBytes cfg.fieldOrder (u[k]'(by omega))).getD j 0 := by
  subst hi
  have inBody : 3 * k + j + 1 < (responseBody cfg u).length := by rw [length_responseBody u fields]; omega
  have sent : k < (u.toList.take cfg.nFields).length := by simp; omega
  rw [responseFrame, getElem_inOfList, List.getD_append _ _ _ _ inBody, responseBody, List.getD_cons_succ,
    getD_flatMap_of_length_three (length_wireBytes _) _ sent hj]
  simp

theorem slot24_responseFrame (fields : cfg.nFields ≤ 11) (k : Fin 11) (hk : k.val < cfg.nFields) :
    slot24 cfg (responseFrame cfg addr u) k = u[k] := by
  rw [slot24, responseFrame_slotByte addr u fields hk (j := 0) (by decide) (by omega),
    responseFrame_slotByte addr u fields hk (j := 1) (by decide) (by omega),
    responseFrame_slotByte addr u fields hk (j := 2) (by decide) (by omega), assemble_wireBytes]
  rfl

/-! ## What PARSE finds in it -/

theorem parseResponse_responseFrame {s : State} (fits : cfg.fits) (frame : s.inp = responseFrame cfg addr u) :
    parseResponse cfg addr s =
      { s with ck := trailingByte cfg.respLen s.inp, ckOk := true, field := decodeFields cfg s.inp s.field, status := stOk } := by
  have pass : responseCk cfg addr s.inp = trailingByte cfg.respLen s.inp := by
    rw [frame, responseCk_responseFrame addr u fits]
  have header : s.inp[0] = cfg.header := by rw [frame, responseFrame_header]
  rcases parseResponse_cases cfg addr s with ⟨differ, -⟩ | ⟨-, bad, -⟩ | ⟨-, -, ends⟩
  · exact absurd pass differ
  · exact absurd header bad
  · rw [ends, pass]
    simp [State.putCheck, State.putFields, State.putStatus, checkOk]

theorem decodeFields_responseFrame (fields : cfg.nFields ≤ 11) (old : FieldFile) (k : Fin 11) :
    (decodeFields cfg (responseFrame cfg addr u) old)[k] =
      if k.val < cfg.nFields then (if cfg.slots[k].signed then sext u[k] else u[k].setWidth 32) else old[k] := by
  refine (getElem_decodeFields cfg _ old k.val k.isLt).trans (ite_congr rfl (fun sent => ?_) fun _ => rfl)
  rw [slot24_responseFrame addr u fields k sent, widen_eq_sext]
  rfl

end

/-! ## PARSE in two parts -/

/-- Where the check passes, PARSE goes on with DEC_RESP's steps. -/
theorem parseResponse_of_pass {addr : Addr} {s : State} (pass : responseCk hw addr s.inp = s.inp[34]) :
    parseResponse hw addr s = decodeResponse hw (s.putCheck (responseCk hw addr s.inp) s.inp[34]) := by
  simp [parseResponse, checkResponse, pass, checkOk]

/-- Where it fails, PARSE ends as VAL_CK does. -/
theorem parseResponse_of_fail {addr : Addr} {s : State} (fail : responseCk hw addr s.inp ≠ s.inp[34]) :
    parseResponse hw addr s = validateResponse hw addr s := by
  simp [parseResponse, validateResponse, checkResponse, fail, checkOk]

theorem validateResponse_of_pass {addr : Addr} {s : State} (pass : responseCk hw addr s.inp = s.inp[34]) :
    validateResponse hw addr s = (s.putCheck (responseCk hw addr s.inp) s.inp[34]).putStatus stOk := by
  simp [validateResponse, checkResponse, pass, checkOk]

end Sys2Proof.Machine

open Sys2Proof.Machine

/-- Settles O29: a frame built under a record that fits passes both checks, and each slot's bytes assemble to its value. -/
theorem parseRoundTripInEveryConfiguration : Obligations.ParseRoundTripInEveryConfiguration := by
  intro cfg s addr u fits frame
  refine ⟨_, parseResponse_responseFrame addr u fits frame, rfl, rfl, fun k => ?_⟩
  exact frame ▸ decodeFields_responseFrame addr u fits.1 s.field k

/-- Settles O28: O29 for this hardware, whose eleven slots are all sent and signed as R162 says. -/
theorem parseRecoversTheEncodedFields : Obligations.ParseRecoversTheEncodedFields := by
  intro s addr u frame
  refine ⟨_, (exec_parse s addr).trans (congrArg _ (parseResponse_responseFrame addr u hw_fits frame)), ?_, fun k => ?_⟩
  · rw [hw_respLen, trailingByte_response]
  · rw [frame, ← signed_hw_slots k]
    exact (decodeFields_responseFrame addr u hw_fits.1 s.field k).trans (if_pos k.isLt)

/-- Settles O30: after a passed check DEC_RESP finds the same frame, and does not read the STATUS it overwrites. -/
theorem parseIsValCkThenDecResp : Obligations.ParseIsValCkThenDecResp := by
  intro s t addr h
  cases (exec_valCk s addr).symm.trans h
  by_cases pass : responseCk hw addr s.inp = s.inp[34]
  · refine ⟨fun _ => ?_, fun bad => absurd (by rw [validateResponse_of_pass pass]; rfl) bad⟩
    rw [exec_parse, parseResponse_of_pass pass, validateResponse_of_pass pass]
    exact (exec_with_status (i := .decResp) rfl _ stOk).symm
  · refine ⟨fun ok => ?_, fun _ => by rw [exec_parse, parseResponse_of_fail pass]⟩
    rw [(validateResponse_of_ne pass).2] at ok
    cases ok

end

section
/-! Read-back and the wire (spec/45_readback.md, spec/20_memory.md section 1, spec/30_encoding.md section 3): which response passes for which address and id, and what a frame on the link leaves. -/

namespace Sys2Proof.Machine

open Sys2Proof.Spec

/-! ## The read-back checksum -/

/-- Another id changes the sum. -/
theorem readbackCk_reg_inj (a : Addr) (r r' lo mid hi : Byte) :
    readbackCk hw a r' lo mid hi = readbackCk hw a r lo mid hi ↔ r' = r := by
  simp [readbackCk, cksum_inj]

/-- Another address changes the seed. -/
theorem readbackCk_addr_inj {a a' : Addr} {r lo mid hi : Byte}
    (h : readbackCk hw a' r lo mid hi = readbackCk hw a r lo mid hi) : a' = a :=
  responseSeed_inj a' a (BitVec.add_left_inj _ |>.mp ((cksum_inj hw _ _ _ _).mp h))

theorem xor_ff_eq_sub (x : Byte) : x ^^^ 0xFF#8 = 0xFF#8 - x := by
  revert x; decide

/-- The write frame sums the same four bytes after a command byte that is 0x50 above the read seed (R183). -/
theorem readbackCk_eq_writeCk_add (a : Addr) (r : Byte) (v : Word24) :
    readbackCk hw a r (byteOf v 0) (byteOf v 1) (byteOf v 2) = writeCk hw a r v + 0x50#8 := by
  have read : readbackCk hw a r (byteOf v 0) (byteOf v 1) (byteOf v 2) =
      0xFF#8 - (0x50#8 + a.setWidth 8 + (r :: leBytes v).sum) := by
    rw [readbackCk, cksum_eq_sum, responseSeed_eq_add, ← xor_ff_eq_sub]
    rfl
  have write : writeCk hw a r v = 0xFF#8 - (0xA0#8 + a.setWidth 8 + (r :: leBytes v).sum) := by
    rw [writeCk, cksum_eq_sum, writeBody, writeOpcode_or_eq_add, List.cons_append, List.sum_cons, zero_add, ← xor_ff_eq_sub]
    rfl
  rw [read, write]
  bv_omega

/-! ## What VAL_RB leaves of it -/

theorem validateReadback_of_ne {a : Addr} {r : Byte} {s : State}
    (h : readbackCk hw a r s.inp[0] s.inp[1] s.inp[2] ≠ s.inp[3]) :
    (validateReadback hw a r s).status = stBadChecksum ∧ (validateReadback hw a r s).rval = s.rval := by
  simp [validateReadback_eq, h]

theorem validateReadback_of_eq {a : Addr} {r : Byte} {s : State}
    (h : readbackCk hw a r s.inp[0] s.inp[1] s.inp[2] = s.inp[3]) :
    validateReadback hw a r s =
      { s with ck := s.inp[3], ckOk := true, rval := zext32 (le24 s.inp[0] s.inp[1] s.inp[2]), status := stOk } := by
  simp [validateReadback_eq, h]

theorem readbackCk_of_status_ok {a : Addr} {r : Byte} {s : State} (ok : (validateReadback hw a r s).status = stOk) :
    readbackCk hw a r s.inp[0] s.inp[1] s.inp[2] = s.inp[3] := by
  by_contra differ
  rw [(validateReadback_of_ne differ).1] at ok
  cases ok

/-! ## Frames on the link -/

theorem exec_wireRegisterReadResponse (lo mid hi ck : Byte) (s : State) :
    exec (.wireRegisterReadResponse lo mid hi ck) s = .next (s.putInp (placeAt [lo, mid, hi, ck] s.inp)) := rfl

theorem exec_wireResponseFrame (b : InBuf) (s : State) : exec (.wireResponseFrame b) s = .next (s.putInp b) :=
  congrArg (fun b => Host.Outcome.next (s.putInp b)) (placeAt_toList b s.inp)

/-- A read response on the link decodes to its own row, and its bytes move into IN. -/
theorem step_readResponse {a : Addr} {r : Byte} {v : Word24} {s : State} {rest : List Event}
    (h : s.pending = .present (.frame (readResponse hw a r v)) :: rest) :
    step s = .next ((s.putPending rest).putInp (placeAt (readResponse hw a r v) s.inp)) :=
  step_of_decode_ok h rfl

/-- The correct read response at `IN[0..3]` passes and gives its value. -/
theorem validateReadback_readResponse {a : Addr} {r : Byte} {v : Word24} {s : State} {b : InBuf}
    (h : s.inp = placeAt (readResponse hw a r v) b) :
    validateReadback hw a r s = { s with ck := s.inp[3], ckOk := true, rval := zext32 v, status := stOk } := by
  have bytes : s.inp[0] = byteOf v 0 ∧ s.inp[1] = byteOf v 1 ∧ s.inp[2] = byteOf v 2 ∧
      s.inp[3] = readbackCk hw a r (byteOf v 0) (byteOf v 1) (byteOf v 2) := by
    simp [h, readResponse, leBytes]
  obtain ⟨h0, h1, h2, h3⟩ := bytes
  have pass : readbackCk hw a r s.inp[0] s.inp[1] s.inp[2] = s.inp[3] := by rw [h0, h1, h2, h3]
  rw [validateReadback_of_eq pass, h0, h1, h2, le24_byteOf]

/-- A presented VAL_RB decodes to itself and finds that response. -/
theorem step_valRb_of_readResponse {a : Addr} {r : Byte} {v : Word24} {s : State} {b : InBuf} {rest : List Event}
    (h : s.pending = .present (encode (.valRb a r)) :: rest) (arrived : s.inp = placeAt (readResponse hw a r v) b) :
    step s = .next { s with ck := s.inp[3], ckOk := true, rval := zext32 v, status := stOk, pending := rest } := by
  rw [step_of_decode_ok h (decode_encode (.valRb a r) rfl), exec_valRb,
    validateReadback_readResponse (s := s.putPending rest) arrived]
  rfl

end Sys2Proof.Machine

open Sys2Proof Sys2Proof.Machine

/-- Settles O31: another id changes the sum, another address the seed, and the received byte is the same. -/
theorem wrongIdOrAddressFailsReadback : Obligations.WrongIdOrAddressFailsReadback := by
  intro s t a r h ok
  cases (exec_valRb s a r).symm.trans h
  have pass := readbackCk_of_status_ok ok
  refine ⟨fun r' other => ⟨_, exec_valRb s a r', validateReadback_of_ne fun pass' => other ?_⟩,
    fun a' other => ⟨_, exec_valRb s a' r, validateReadback_of_ne fun pass' => other ?_⟩⟩
  · exact (readbackCk_reg_inj a r r' _ _ _).mp (pass'.trans pass.symm)
  · exact readbackCk_addr_inj (pass'.trans pass.symm)

/-- Settles O32: the read-back checksum is the write frame's plus 0x50, over the same value bytes. -/
theorem readbackAfterWriteGivesTheValue : Obligations.ReadbackAfterWriteGivesTheValue := by
  intro s t u a r value h h0 h1 h2 h3
  cases (exec_encWr s a r value).symm.trans h
  have frame : u.inp[0] = byteOf (value24 value) 0 ∧ u.inp[1] = byteOf (value24 value) 1 ∧
      u.inp[2] = byteOf (value24 value) 2 ∧ u.inp[3] = writeCk hw a r (value24 value) + 0x50#8 := ⟨h0, h1, h2, h3⟩
  obtain ⟨lo, mid, hi, last⟩ := frame
  have pass : readbackCk hw a r u.inp[0] u.inp[1] u.inp[2] = u.inp[3] := by
    rw [lo, mid, hi, last, readbackCk_eq_writeCk_add]
  rw [exec_valRb, validateReadback_of_eq pass, lo, mid, hi, le24_byteOf]
  rfl

/-- Settles O48: the three rows pass the block by. -/
theorem framesToTheDeviceChangeNothing : Obligations.FramesToTheDeviceChangeNothing :=
  fun _ _ _ _ _ _ _ => ⟨rfl, rfl, rfl⟩

/-- Settles O49: a response frame fills the port, a read response its first four bytes. -/
theorem framesFromTheDeviceStandAtIn : Obligations.FramesFromTheDeviceStandAtIn := by
  refine ⟨fun s b => exec_wireResponseFrame b s, fun s lo mid hi c => ?_⟩
  refine ⟨_, exec_wireRegisterReadResponse lo mid hi c s, rfl, ?_, ?_, ?_, ?_, fun j past => ?_⟩
  case refine_5 => simp [List.getElem?_eq_none (show [lo, mid, hi, c].length ≤ j.val from past)]
  all_goals simp

/-- Settles O50: the frame's four bytes move into IN, where VAL_RB finds them. -/
theorem arrivingReadResponseValidates : Obligations.ArrivingReadResponseValidates := by
  intro s a r v rest h
  exact ⟨_, _, step_readResponse h, step_valRb_of_readResponse rfl rfl, rfl, rfl, rfl, rfl⟩

end

section
/-! What an instruction writes as a function of IN (spec/10_state.md R31, R32, R38): one table of written registers, tied to `exec` once; that an operation reads and writes what the rules name, and nothing else, is read off the table. -/

namespace Sys2Proof.Machine

open Sys2Proof.Spec

/-! ## The table of written registers -/

/-- A value for each register an instruction writes; none where it keeps the register (R31). -/
structure Writes where
  out : Option (OutBuf × BitVec 3) := none
  field : Option FieldFile := none
  rval : Option Word := none
  ck : Option Byte := none
  ckOk : Option Bool := none
  status : Option StatusCode := none
  inp : Option InBuf := none

/-- The state after these writes. -/
def Writes.apply (w : Writes) (s : State) : State where
  out := (w.out.map Prod.fst).getD s.out
  outLen := (w.out.map Prod.snd).getD s.outLen
  field := w.field.getD s.field
  rval := w.rval.getD s.rval
  ck := w.ck.getD s.ck
  ckOk := w.ckOk.getD s.ckOk
  status := w.status.getD s.status
  inp := w.inp.getD s.inp
  pending := s.pending

/-- What each instruction writes when the port holds `b`. -/
def writes (i : Instr) (b : InBuf) : Writes :=
  match i with
  | .encTreq a => { out := some (padOut (telemetryRequest hw a), 2), status := some stOk }
  | .encRreq a r => { out := some (padOut (readRequest hw a r), 2), status := some stOk }
  | .encWr a r v =>
    { out := some (padOut (writeFrame hw a r (value24 v)), 6), ck := some (writeCk hw a r (value24 v)), status := some stOk }
  | .packLe v => { out := some (padOut (leBytes (value24 v)), 3), status := some stOk }
  | .cksum seed len =>
    { ck := if len.toNat ≤ 35 then some (cksum hw seed (b.toList.take len.toNat)) else none,
      status := some (if len.toNat ≤ 35 then stOk else stIllegal) }
  | .valCk a =>
    { ck := some (responseCk hw a b), ckOk := some (responseCk hw a b == b[34]),
      status := some (if responseCk hw a b = b[34] then stOk else stBadChecksum) }
  | .unpkBeU => { rval := some (zext32 (be24 b[0] b[1] b[2])), status := some stOk }
  | .unpkBeS => { rval := some (sext32 (be24 b[0] b[1] b[2])), status := some stOk }
  | .unpkLeU => { rval := some (zext32 (le24 b[0] b[1] b[2])), status := some stOk }
  | .decResp =>
    { field := if b[0] = 0x55#8 then some (Vector.ofFn (slotValue b)) else none,
      status := some (if b[0] = 0x55#8 then stOk else stBadHeader) }
  | .parse a =>
    { field := if responseCk hw a b = b[34] ∧ b[0] = 0x55#8 then some (Vector.ofFn (slotValue b)) else none,
      ck := some (responseCk hw a b), ckOk := some (responseCk hw a b == b[34]),
      status := some (if responseCk hw a b = b[34] then (if b[0] = 0x55#8 then stOk else stBadHeader) else stBadChecksum) }
  | .valRb a r =>
    { rval := if readbackCk hw a r b[0] b[1] b[2] = b[3] then some (zext32 (le24 b[0] b[1] b[2])) else none,
      ck := some (readbackCk hw a r b[0] b[1] b[2]), ckOk := some (readbackCk hw a r b[0] b[1] b[2] == b[3]),
      status := some (if readbackCk hw a r b[0] b[1] b[2] = b[3] then stOk else stBadChecksum) }
  | .reserved0 => { status := some stIllegal }
  | .reservedD => { status := some stIllegal }
  | .reservedE => { status := some stIllegal }
  | .reservedF => { status := some stIllegal }
  | .wireTelemetryRequest _ => {}
  | .wireRegisterReadRequest _ _ => {}
  | .wireRegisterWrite _ _ _ _ _ _ => {}
  | .wireRegisterReadResponse lo mid hi ck => { inp := some (placeAt [lo, mid, hi, ck] b) }
  | .wireResponseFrame bytes => { inp := some bytes }

/-- The table is the meaning. -/
theorem exec_eq_writes (i : Instr) (s : State) : exec i s = .next ((writes i s.inp).apply s) := by
  cases i with
  | cksum seed len =>
    rw [exec_cksum]
    by_cases within : len.toNat ≤ 35
    · simp [checksumOf_of_le s seed len within, writes, Writes.apply, within, cksum_hw_eq_ck]
    · simp [checksumOf_of_gt s seed len (Nat.lt_of_not_le within), writes, Writes.apply, within]
  | valCk a =>
    rw [exec_valCk, validateResponse_eq]
    rfl
  | decResp =>
    rw [exec_decResp]
    by_cases good : s.inp[0] = 0x55#8
    · simp [decodeResponse_of_header s good, writes, Writes.apply, good]
    · simp [decodeResponse_of_header_ne s good, writes, Writes.apply, good]
  | parse a =>
    rw [exec_parse, parseResponse_eq]
    by_cases pass : responseCk hw a s.inp = s.inp[34] <;> by_cases good : s.inp[0] = 0x55#8 <;>
      simp [writes, Writes.apply, pass, good]
  | valRb a r =>
    rw [exec_valRb, validateReadback_eq]
    by_cases pass : readbackCk hw a r s.inp[0] s.inp[1] s.inp[2] = s.inp[3] <;> simp [writes, Writes.apply, pass]
  | wireResponseFrame bytes => exact exec_wireResponseFrame bytes s
  | _ => rfl

theorem eq_apply_of_exec {i : Instr} {s t : State} (h : exec i s = .next t) : t = (writes i s.inp).apply s :=
  (Host.Outcome.next.inj ((exec_eq_writes i s).symm.trans h)).symm

/-! ## Fresh data (R164, R232, R238) -/

theorem status_of_freshAfter {i : Instr} {r : DataReg} {t : State} (h : freshAfter i r t = true) : t.status = stOk := by
  unfold freshAfter at h
  simp_all

/-- FIELD is fresh and decoded from IN, or kept. -/
theorem field_fresh_or_kept (i : Instr) (s : State) :
    let t := (writes i s.inp).apply s
    (freshAfter i .field t = true → (i = .decResp ∨ ∃ a, i = .parse a) ∧ t.field = Vector.ofFn (slotValue s.inp)) ∧
      (freshAfter i .field t = false → t.field = s.field) := by
  cases i with
  | decResp =>
    by_cases good : s.inp[0] = 0x55#8 <;> simp [writes, Writes.apply, freshAfter, dataReg, good]
  | parse a =>
    by_cases pass : responseCk hw a s.inp = s.inp[34] <;> by_cases good : s.inp[0] = 0x55#8 <;>
      simp [writes, Writes.apply, freshAfter, dataReg, pass, good]
  | _ => simp [writes, Writes.apply, freshAfter, dataReg]

/-- RVAL is fresh and assembled from IN[0..2], or kept. -/
theorem rval_fresh_or_kept (i : Instr) (s : State) :
    let t := (writes i s.inp).apply s
    (freshAfter i .rval t = true →
      (i = .unpkBeU ∧ t.rval = (join24 s.inp[0] s.inp[1] s.inp[2]).setWidth 32) ∨
      (i = .unpkBeS ∧ t.rval = sext (join24 s.inp[0] s.inp[1] s.inp[2])) ∨
      ((i = .unpkLeU ∨ ∃ a r, i = .valRb a r) ∧ t.rval = (join24 s.inp[2] s.inp[1] s.inp[0]).setWidth 32)) ∧
      (freshAfter i .rval t = false → t.rval = s.rval) := by
  cases i with
  | unpkBeU => simp [writes, Writes.apply, freshAfter, dataReg, be24_eq_join24, zext32]
  | unpkBeS => simp [writes, Writes.apply, freshAfter, dataReg, be24_eq_join24, sext32_eq_sext]
  | unpkLeU => simp [writes, Writes.apply, freshAfter, dataReg, le24_eq_join24, zext32]
  | valRb a r =>
    by_cases pass : readbackCk hw a r s.inp[0] s.inp[1] s.inp[2] = s.inp[3] <;>
      simp [writes, Writes.apply, freshAfter, dataReg, pass, le24_eq_join24, zext32]
  | _ => simp [writes, Writes.apply, freshAfter, dataReg]

/-! ## Who writes a register (R31, R32) -/

section
variable (i : Instr) (s : State)

theorem out_written : ((writes i s.inp).apply s).out ≠ s.out ∨ ((writes i s.inp).apply s).outLen ≠ s.outLen →
    (∃ a, i = .encTreq a) ∨ (∃ a r, i = .encRreq a r) ∨ (∃ a r v, i = .encWr a r v) ∨ (∃ v, i = .packLe v) := by
  intro h
  cases i with
  | encTreq | encRreq | encWr | packLe => simp
  | _ => simp [writes, Writes.apply] at h

theorem ck_written : ((writes i s.inp).apply s).ck ≠ s.ck →
    (∃ c n, i = .cksum c n) ∨ (∃ a r v, i = .encWr a r v) ∨ (∃ a, i = .valCk a) ∨ (∃ a, i = .parse a) ∨ ∃ a r, i = .valRb a r := by
  intro h
  cases i with
  | cksum | encWr | valCk | parse | valRb => simp
  | _ => simp [writes, Writes.apply] at h

theorem ckOk_written : ((writes i s.inp).apply s).ckOk ≠ s.ckOk →
    (∃ a, i = .valCk a) ∨ (∃ a, i = .parse a) ∨ ∃ a r, i = .valRb a r := by
  intro h
  cases i with
  | valCk | parse | valRb => simp
  | _ => simp [writes, Writes.apply] at h

theorem status_written : ((writes i s.inp).apply s).status ≠ s.status → isWireFrame i = false := by
  intro h
  cases i with
  | wireTelemetryRequest | wireRegisterReadRequest | wireRegisterWrite | wireRegisterReadResponse | wireResponseFrame =>
    simp [writes, Writes.apply] at h
  | _ => rfl

theorem inp_written : ((writes i s.inp).apply s).inp ≠ s.inp → isWireFrame i = true := by
  intro h
  cases i with
  | wireTelemetryRequest | wireRegisterReadRequest | wireRegisterWrite | wireRegisterReadResponse | wireResponseFrame => rfl
  | _ => simp [writes, Writes.apply] at h

end

/-! ## What an operation reads (R38, R57, R82) -/

/-- An operation writes STATUS and leaves the port. -/
theorem writes_operation {i : Instr} (operation : isWireFrame i = false) (b : InBuf) :
    (∃ c, (writes i b).status = some c) ∧ (writes i b).inp = none := by
  cases i with
  | wireTelemetryRequest | wireRegisterReadRequest | wireRegisterWrite | wireRegisterReadResponse | wireResponseFrame =>
    cases operation
  | _ => exact ⟨⟨_, rfl⟩, rfl⟩

theorem take_toList_congr {b b' : InBuf} {n : Nat} (same : ∀ j : Fin 35, j.val < n → b[j] = b'[j]) :
    b.toList.take n = b'.toList.take n := by
  refine List.ext_getElem (by simp) fun k hk _ => ?_
  have inside : k < n ∧ k < 35 := by simpa using hk
  simpa using same ⟨k, inside.2⟩ inside.1

/-- The slots end at byte 33. -/
theorem slotValue_congr {b b' : InBuf} (same : ∀ j : Fin 35, j.val < 34 → b[j] = b'[j]) : slotValue b = slotValue b' := by
  ext1 k
  have first := same ⟨1 + 3 * k.val, by omega⟩ (by simp; omega)
  have second := same ⟨2 + 3 * k.val, by omega⟩ (by simp; omega)
  have third := same ⟨3 + 3 * k.val, by omega⟩ (by simp; omega)
  simp only [Fin.getElem_fin] at first second third
  rw [slotValue, slotValue, first, second, third]

/-- A whole port read means the same port. -/
theorem inBuf_ext {b b' : InBuf} (same : ∀ j : Fin 35, j.val < 35 → b[j] = b'[j]) : b = b' :=
  Vector.ext fun k hk => same ⟨k, hk⟩ hk

/-- The writes depend on the bytes the operand table says are read. -/
theorem writes_congr {i : Instr} (operation : isWireFrame i = false) {b b' : InBuf}
    (same : ∀ j : Fin 35, j.val < readCount i → b[j] = b'[j]) : writes i b = writes i b' := by
  have byte (k : Nat) (hk : k < 35) (read : k < readCount i) : b[k] = b'[k] := same ⟨k, hk⟩ read
  cases i with
  | cksum seed len => simp only [writes, take_toList_congr (n := len.toNat) same]
  | valCk | parse => rw [inBuf_ext same]
  | unpkBeU | unpkBeS | unpkLeU =>
    simp only [writes, byte 0 (by decide) (by decide), byte 1 (by decide) (by decide), byte 2 (by decide) (by decide)]
  | decResp => simp only [writes, byte 0 (by decide) (by decide), slotValue_congr same]
  | valRb a r =>
    simp only [writes, byte 0 (by decide) (by simp [readCount]), byte 1 (by decide) (by simp [readCount]),
      byte 2 (by decide) (by simp [readCount]), byte 3 (by decide) (by simp [readCount])]
  | wireTelemetryRequest | wireRegisterReadRequest | wireRegisterWrite | wireRegisterReadResponse | wireResponseFrame =>
    cases operation
  | _ => rfl

/-- Writes that leave the port do not look at it. -/
theorem Writes.apply_with_inp {w : Writes} (h : w.inp = none) (s : State) (b : InBuf) :
    w.apply { s with inp := b } = { w.apply s with inp := b } := by
  simp [Writes.apply, h]

/-- A register is written the same in both states, or kept in both. -/
theorem getD_eq_or_kept {α : Type} (o : Option α) (x y : α) : o.getD x = o.getD y ∨ o.getD x = x ∧ o.getD y = y := by
  cases o with
  | none => exact .inr ⟨rfl, rfl⟩
  | some => exact .inl rfl

end Sys2Proof.Machine

open Sys2Proof.Machine

/-- Settles O16: the writes are the same, and none of them is the port. -/
theorem unreadInputBytesHaveNoEffect : Obligations.UnreadInputBytesHaveNoEffect := by
  intro i s b operation same
  obtain ⟨-, keepsInp⟩ := writes_operation operation s.inp
  refine ⟨_, exec_eq_writes i s, ?_⟩
  rw [exec_eq_writes, writes_congr operation same, Writes.apply_with_inp keepsInp]

/-- Settles O33: each data register is fresh or kept. -/
theorem freshDataIsThisOperationsResult : Obligations.FreshDataIsThisOperationsResult := by
  intro i s t h
  rw [eq_apply_of_exec h]
  obtain ⟨freshField, keptField⟩ := field_fresh_or_kept i s
  obtain ⟨freshRval, keptRval⟩ := rval_fresh_or_kept i s
  exact ⟨freshField, freshRval, keptField, keptRval⟩

/-- Settles O34: by the table's column of each register; the data registers change only when fresh, so only with STATUS = OK. -/
theorem onlyTheNamedOperationsWriteARegister : Obligations.OnlyTheNamedOperationsWriteARegister := by
  intro i s t h
  rw [eq_apply_of_exec h]
  refine ⟨out_written i s, fun changed => ?_, fun changed => ?_, ck_written i s, ckOk_written i s, status_written i s,
    inp_written i s, rfl⟩
  · obtain ⟨named, kept⟩ := field_fresh_or_kept i s
    have fresh := (Bool.not_eq_false _).mp (mt kept changed)
    exact ⟨status_of_freshAfter fresh, (named fresh).1⟩
  · obtain ⟨named, kept⟩ := rval_fresh_or_kept i s
    have fresh := (Bool.not_eq_false _).mp (mt kept changed)
    exact ⟨status_of_freshAfter fresh, (named fresh).imp And.left (Or.imp And.left And.left)⟩

/-- Settles O36: the same IN gives the same writes. -/
theorem resultsDependOnInputsOnly : Obligations.ResultsDependOnInputsOnly := by
  intro i s s' operation sameInp
  obtain ⟨⟨c, status⟩, -⟩ := writes_operation operation s.inp
  have ends : exec i s' = .next ((writes i s.inp).apply s') := by rw [sameInp, exec_eq_writes]
  refine ⟨_, _, exec_eq_writes i s, ends, ?_, ?_, getD_eq_or_kept _ s.field s'.field, getD_eq_or_kept _ s.rval s'.rval,
    getD_eq_or_kept _ s.ck s'.ck, getD_eq_or_kept _ s.ckOk s'.ckOk⟩
  · simp [Writes.apply, status]
  · cases h : (writes i s.inp).out <;> simp [Writes.apply, h]

end
